-- ==== Sys2Proof/Word.lean ====
section
/-! DEFINITION. The two word types of the block: 8-bit bytes on the data bus and 16-bit addresses and
register pairs (00_scope.md R8, R10). -/

namespace Sys2Proof

/-- An 8-bit register or one byte of memory (R8: "data bus width 8 bits"). -/
abbrev Byte := BitVec 8

/-- A 16-bit register or an address (R8: "address width 16 bits"). -/
abbrev Word := BitVec 16

end Sys2Proof
end

