-- ==== Sys2Proof/Syntax.lean ====
section
/-! DEFINITION. The instructions: one constructor for each of the 281 rows of spec/opcode_table.json
(30_encoding.md R72, R82, R83), with the operands the row's encoding carries. -/

namespace Sys2Proof

/-- The 8-bit registers that field `y` or `z` names; its value 6, the memory operand (HL), has rows of its own
(30_encoding.md R77). -/
inductive Reg8 where
  | b
  | c
  | d
  | e
  | h
  | l
  | a
deriving DecidableEq, Repr

/-- Table `rp` of field `p` (R78). -/
inductive Pair where
  | bc
  | de
  | hl
  | sp
deriving DecidableEq, Repr

/-- Table `rp2` of field `p`, for PUSH and POP (R78). -/
inductive StackPair where
  | bc
  | de
  | hl
  | af
deriving DecidableEq, Repr

/-- Condition field `cc` (R79). -/
inductive Cond where
  | nz
  | z
  | nc
  | c
deriving DecidableEq, Repr

/-- ALU operation field `y` (R80). -/
inductive AluOp where
  | add
  | adc
  | sub
  | sbc
  | and
  | xor
  | or
  | cp
deriving DecidableEq, Repr

/-- Rotate and shift field `y` of the CB group x = 0 (R80, R156). -/
inductive ShiftOp where
  | rlc
  | rrc
  | rl
  | rr
  | sla
  | sra
  | swap
  | srl
deriving DecidableEq, Repr

/-- The five interrupt sources, bit 0 to bit 4 of IE and IF (60_exceptions.md R202). -/
inductive IrqSource where
  | vblank
  | stat
  | timer
  | serial
  | joypad
deriving DecidableEq, Repr

/-- The instruction set: every row of spec/opcode_table.json, the rows that carry operands first. The operands are the
immediate bytes of the row (`n`, `e`, `o` one byte, `w` a 16-bit operand), the register `r` or the bit number `b` of a
CB row, and the source `k` of `INT(k)`. The docstring of a row is its name in the spec's text and its rule. -/
inductive Instr where
  /-- `LD BC,n16`: R106. -/
  | ldBcN16 (w : Word)
  /-- `LD B,n8`: R88. -/
  | ldBN8 (n : Byte)
  /-- `LD (a16),SP`: R107. -/
  | ldAtA16Sp (w : Word)
  /-- `LD C,n8`: R88. -/
  | ldCN8 (n : Byte)
  /-- `STOP`: R199. -/
  | stop (n : Byte)
  /-- `LD DE,n16`: R106. -/
  | ldDeN16 (w : Word)
  /-- `LD D,n8`: R88. -/
  | ldDN8 (n : Byte)
  /-- `JR e8`: R183. -/
  | jrE8 (e : Byte)
  /-- `LD E,n8`: R88. -/
  | ldEN8 (n : Byte)
  /-- `JR NZ,e8`: R184. -/
  | jrNzE8 (e : Byte)
  /-- `LD HL,n16`: R106. -/
  | ldHlN16 (w : Word)
  /-- `LD H,n8`: R88. -/
  | ldHN8 (n : Byte)
  /-- `JR Z,e8`: R184. -/
  | jrZE8 (e : Byte)
  /-- `LD L,n8`: R88. -/
  | ldLN8 (n : Byte)
  /-- `JR NC,e8`: R184. -/
  | jrNcE8 (e : Byte)
  /-- `LD SP,n16`: R106. -/
  | ldSpN16 (w : Word)
  /-- `LD (HL),n8`: R91. -/
  | ldAtHlN8 (n : Byte)
  /-- `JR C,e8`: R184. -/
  | jrCE8 (e : Byte)
  /-- `LD A,n8`: R88. -/
  | ldAN8 (n : Byte)
  /-- `JP NZ,a16`: R181. -/
  | jpNzA16 (w : Word)
  /-- `JP a16`: R180. -/
  | jpA16 (w : Word)
  /-- `CALL NZ,a16`: R186. -/
  | callNzA16 (w : Word)
  /-- `ADD A,n8`: R116. -/
  | addAN8 (n : Byte)
  /-- `JP Z,a16`: R181. -/
  | jpZA16 (w : Word)
  /-- `CALL Z,a16`: R186. -/
  | callZA16 (w : Word)
  /-- `CALL a16`: R185. -/
  | callA16 (w : Word)
  /-- `ADC A,n8`: R119. -/
  | adcAN8 (n : Byte)
  /-- `JP NC,a16`: R181. -/
  | jpNcA16 (w : Word)
  /-- `CALL NC,a16`: R186. -/
  | callNcA16 (w : Word)
  /-- `SUB A,n8`: R122. -/
  | subAN8 (n : Byte)
  /-- `JP C,a16`: R181. -/
  | jpCA16 (w : Word)
  /-- `CALL C,a16`: R186. -/
  | callCA16 (w : Word)
  /-- `SBC A,n8`: R125. -/
  | sbcAN8 (n : Byte)
  /-- `LDH (a8),A`: R103. -/
  | ldhAtA8A (o : Byte)
  /-- `AND A,n8`: R131. -/
  | andAN8 (n : Byte)
  /-- `ADD SP,e8`: R150. -/
  | addSpE8 (e : Byte)
  /-- `LD (a16),A`: R101. -/
  | ldAtA16A (w : Word)
  /-- `XOR A,n8`: R134. -/
  | xorAN8 (n : Byte)
  /-- `LDH A,(a8)`: R102. -/
  | ldhAAtA8 (o : Byte)
  /-- `OR A,n8`: R137. -/
  | orAN8 (n : Byte)
  /-- `LD HL,SP+e8`: R151. -/
  | ldHlSpE8 (e : Byte)
  /-- `LD A,(a16)`: R100. -/
  | ldAAtA16 (w : Word)
  /-- `CP A,n8`: R128. -/
  | cpAN8 (n : Byte)
  /-- `RLC r`: R157. -/
  | rlcR (r : Reg8)
  /-- `RRC r`: R159. -/
  | rrcR (r : Reg8)
  /-- `RL r`: R161. -/
  | rlR (r : Reg8)
  /-- `RR r`: R163. -/
  | rrR (r : Reg8)
  /-- `SLA r`: R165. -/
  | slaR (r : Reg8)
  /-- `SRA r`: R167. -/
  | sraR (r : Reg8)
  /-- `SWAP r`: R169. -/
  | swapR (r : Reg8)
  /-- `SRL r`: R171. -/
  | srlR (r : Reg8)
  /-- `BIT b,r`: R173. -/
  | bitBR (b : Fin 8) (r : Reg8)
  /-- `BIT b,(HL)`: R174. -/
  | bitBAtHl (b : Fin 8)
  /-- `RES b,r`: R175. -/
  | resBR (b : Fin 8) (r : Reg8)
  /-- `RES b,(HL)`: R176. -/
  | resBAtHl (b : Fin 8)
  /-- `SET b,r`: R177. -/
  | setBR (b : Fin 8) (r : Reg8)
  /-- `SET b,(HL)`: R178. -/
  | setBAtHl (b : Fin 8)
  /-- `INT(k) (interrupt service)`: R206. -/
  | interrupt (k : IrqSource)
  /-- `NOP`: R191. -/
  | nop
  /-- `LD (BC),A`: R94. -/
  | ldAtBcA
  /-- `INC BC`: R146. -/
  | incBc
  /-- `INC B`: R138. -/
  | incB
  /-- `DEC B`: R140. -/
  | decB
  /-- `RLCA`: R152. -/
  | rlca
  /-- `ADD HL,BC`: R148. -/
  | addHlBc
  /-- `LD A,(BC)`: R92. -/
  | ldAAtBc
  /-- `DEC BC`: R147. -/
  | decBc
  /-- `INC C`: R138. -/
  | incC
  /-- `DEC C`: R140. -/
  | decC
  /-- `RRCA`: R153. -/
  | rrca
  /-- `LD (DE),A`: R95. -/
  | ldAtDeA
  /-- `INC DE`: R146. -/
  | incDe
  /-- `INC D`: R138. -/
  | incD
  /-- `DEC D`: R140. -/
  | decD
  /-- `RLA`: R154. -/
  | rla
  /-- `ADD HL,DE`: R148. -/
  | addHlDe
  /-- `LD A,(DE)`: R93. -/
  | ldAAtDe
  /-- `DEC DE`: R147. -/
  | decDe
  /-- `INC E`: R138. -/
  | incE
  /-- `DEC E`: R140. -/
  | decE
  /-- `RRA`: R155. -/
  | rra
  /-- `LD (HL+),A`: R96. -/
  | ldAtHlIncA
  /-- `INC HL`: R146. -/
  | incHl
  /-- `INC H`: R138. -/
  | incH
  /-- `DEC H`: R140. -/
  | decH
  /-- `DAA`: R142. -/
  | daa
  /-- `ADD HL,HL`: R148. -/
  | addHlHl
  /-- `LD A,(HL+)`: R97. -/
  | ldAAtHlInc
  /-- `DEC HL`: R147. -/
  | decHl
  /-- `INC L`: R138. -/
  | incL
  /-- `DEC L`: R140. -/
  | decL
  /-- `CPL`: R143. -/
  | cpl
  /-- `LD (HL-),A`: R98. -/
  | ldAtHlDecA
  /-- `INC SP`: R146. -/
  | incSp
  /-- `INC (HL)`: R139. -/
  | incAtHl
  /-- `DEC (HL)`: R141. -/
  | decAtHl
  /-- `SCF`: R144. -/
  | scf
  /-- `ADD HL,SP`: R148. -/
  | addHlSp
  /-- `LD A,(HL-)`: R99. -/
  | ldAAtHlDec
  /-- `DEC SP`: R147. -/
  | decSp
  /-- `INC A`: R138. -/
  | incA
  /-- `DEC A`: R140. -/
  | decA
  /-- `CCF`: R145. -/
  | ccf
  /-- `LD B,B`: R87. -/
  | ldBB
  /-- `LD B,C`: R87. -/
  | ldBC
  /-- `LD B,D`: R87. -/
  | ldBD
  /-- `LD B,E`: R87. -/
  | ldBE
  /-- `LD B,H`: R87. -/
  | ldBH
  /-- `LD B,L`: R87. -/
  | ldBL
  /-- `LD B,(HL)`: R89. -/
  | ldBAtHl
  /-- `LD B,A`: R87. -/
  | ldBA
  /-- `LD C,B`: R87. -/
  | ldCB
  /-- `LD C,C`: R87. -/
  | ldCC
  /-- `LD C,D`: R87. -/
  | ldCD
  /-- `LD C,E`: R87. -/
  | ldCE
  /-- `LD C,H`: R87. -/
  | ldCH
  /-- `LD C,L`: R87. -/
  | ldCL
  /-- `LD C,(HL)`: R89. -/
  | ldCAtHl
  /-- `LD C,A`: R87. -/
  | ldCA
  /-- `LD D,B`: R87. -/
  | ldDB
  /-- `LD D,C`: R87. -/
  | ldDC
  /-- `LD D,D`: R87. -/
  | ldDD
  /-- `LD D,E`: R87. -/
  | ldDE
  /-- `LD D,H`: R87. -/
  | ldDH
  /-- `LD D,L`: R87. -/
  | ldDL
  /-- `LD D,(HL)`: R89. -/
  | ldDAtHl
  /-- `LD D,A`: R87. -/
  | ldDA
  /-- `LD E,B`: R87. -/
  | ldEB
  /-- `LD E,C`: R87. -/
  | ldEC
  /-- `LD E,D`: R87. -/
  | ldED
  /-- `LD E,E`: R87. -/
  | ldEE
  /-- `LD E,H`: R87. -/
  | ldEH
  /-- `LD E,L`: R87. -/
  | ldEL
  /-- `LD E,(HL)`: R89. -/
  | ldEAtHl
  /-- `LD E,A`: R87. -/
  | ldEA
  /-- `LD H,B`: R87. -/
  | ldHB
  /-- `LD H,C`: R87. -/
  | ldHC
  /-- `LD H,D`: R87. -/
  | ldHD
  /-- `LD H,E`: R87. -/
  | ldHE
  /-- `LD H,H`: R87. -/
  | ldHH
  /-- `LD H,L`: R87. -/
  | ldHL
  /-- `LD H,(HL)`: R89. -/
  | ldHAtHl
  /-- `LD H,A`: R87. -/
  | ldHA
  /-- `LD L,B`: R87. -/
  | ldLB
  /-- `LD L,C`: R87. -/
  | ldLC
  /-- `LD L,D`: R87. -/
  | ldLD
  /-- `LD L,E`: R87. -/
  | ldLE
  /-- `LD L,H`: R87. -/
  | ldLH
  /-- `LD L,L`: R87. -/
  | ldLL
  /-- `LD L,(HL)`: R89. -/
  | ldLAtHl
  /-- `LD L,A`: R87. -/
  | ldLA
  /-- `LD (HL),B`: R90. -/
  | ldAtHlB
  /-- `LD (HL),C`: R90. -/
  | ldAtHlC
  /-- `LD (HL),D`: R90. -/
  | ldAtHlD
  /-- `LD (HL),E`: R90. -/
  | ldAtHlE
  /-- `LD (HL),H`: R90. -/
  | ldAtHlH
  /-- `LD (HL),L`: R90. -/
  | ldAtHlL
  /-- `HALT`: R195. -/
  | halt
  /-- `LD (HL),A`: R90. -/
  | ldAtHlA
  /-- `LD A,B`: R87. -/
  | ldAB
  /-- `LD A,C`: R87. -/
  | ldAC
  /-- `LD A,D`: R87. -/
  | ldAD
  /-- `LD A,E`: R87. -/
  | ldAE
  /-- `LD A,H`: R87. -/
  | ldAH
  /-- `LD A,L`: R87. -/
  | ldAL
  /-- `LD A,(HL)`: R89. -/
  | ldAAtHl
  /-- `LD A,A`: R87. -/
  | ldAA
  /-- `ADD A,B`: R114. -/
  | addAB
  /-- `ADD A,C`: R114. -/
  | addAC
  /-- `ADD A,D`: R114. -/
  | addAD
  /-- `ADD A,E`: R114. -/
  | addAE
  /-- `ADD A,H`: R114. -/
  | addAH
  /-- `ADD A,L`: R114. -/
  | addAL
  /-- `ADD A,(HL)`: R115. -/
  | addAAtHl
  /-- `ADD A,A`: R114. -/
  | addAA
  /-- `ADC A,B`: R117. -/
  | adcAB
  /-- `ADC A,C`: R117. -/
  | adcAC
  /-- `ADC A,D`: R117. -/
  | adcAD
  /-- `ADC A,E`: R117. -/
  | adcAE
  /-- `ADC A,H`: R117. -/
  | adcAH
  /-- `ADC A,L`: R117. -/
  | adcAL
  /-- `ADC A,(HL)`: R118. -/
  | adcAAtHl
  /-- `ADC A,A`: R117. -/
  | adcAA
  /-- `SUB A,B`: R120. -/
  | subAB
  /-- `SUB A,C`: R120. -/
  | subAC
  /-- `SUB A,D`: R120. -/
  | subAD
  /-- `SUB A,E`: R120. -/
  | subAE
  /-- `SUB A,H`: R120. -/
  | subAH
  /-- `SUB A,L`: R120. -/
  | subAL
  /-- `SUB A,(HL)`: R121. -/
  | subAAtHl
  /-- `SUB A,A`: R120. -/
  | subAA
  /-- `SBC A,B`: R123. -/
  | sbcAB
  /-- `SBC A,C`: R123. -/
  | sbcAC
  /-- `SBC A,D`: R123. -/
  | sbcAD
  /-- `SBC A,E`: R123. -/
  | sbcAE
  /-- `SBC A,H`: R123. -/
  | sbcAH
  /-- `SBC A,L`: R123. -/
  | sbcAL
  /-- `SBC A,(HL)`: R124. -/
  | sbcAAtHl
  /-- `SBC A,A`: R123. -/
  | sbcAA
  /-- `AND A,B`: R129. -/
  | andAB
  /-- `AND A,C`: R129. -/
  | andAC
  /-- `AND A,D`: R129. -/
  | andAD
  /-- `AND A,E`: R129. -/
  | andAE
  /-- `AND A,H`: R129. -/
  | andAH
  /-- `AND A,L`: R129. -/
  | andAL
  /-- `AND A,(HL)`: R130. -/
  | andAAtHl
  /-- `AND A,A`: R129. -/
  | andAA
  /-- `XOR A,B`: R132. -/
  | xorAB
  /-- `XOR A,C`: R132. -/
  | xorAC
  /-- `XOR A,D`: R132. -/
  | xorAD
  /-- `XOR A,E`: R132. -/
  | xorAE
  /-- `XOR A,H`: R132. -/
  | xorAH
  /-- `XOR A,L`: R132. -/
  | xorAL
  /-- `XOR A,(HL)`: R133. -/
  | xorAAtHl
  /-- `XOR A,A`: R132. -/
  | xorAA
  /-- `OR A,B`: R135. -/
  | orAB
  /-- `OR A,C`: R135. -/
  | orAC
  /-- `OR A,D`: R135. -/
  | orAD
  /-- `OR A,E`: R135. -/
  | orAE
  /-- `OR A,H`: R135. -/
  | orAH
  /-- `OR A,L`: R135. -/
  | orAL
  /-- `OR A,(HL)`: R136. -/
  | orAAtHl
  /-- `OR A,A`: R135. -/
  | orAA
  /-- `CP A,B`: R126. -/
  | cpAB
  /-- `CP A,C`: R126. -/
  | cpAC
  /-- `CP A,D`: R126. -/
  | cpAD
  /-- `CP A,E`: R126. -/
  | cpAE
  /-- `CP A,H`: R126. -/
  | cpAH
  /-- `CP A,L`: R126. -/
  | cpAL
  /-- `CP A,(HL)`: R127. -/
  | cpAAtHl
  /-- `CP A,A`: R126. -/
  | cpAA
  /-- `RET NZ`: R189. -/
  | retNz
  /-- `POP BC`: R110. -/
  | popBc
  /-- `PUSH BC`: R109. -/
  | pushBc
  /-- `RST 0x00`: R187. -/
  | rst00
  /-- `RET Z`: R189. -/
  | retZ
  /-- `RET`: R188. -/
  | ret
  /-- `RST 0x08`: R187. -/
  | rst08
  /-- `RET NC`: R189. -/
  | retNc
  /-- `POP DE`: R110. -/
  | popDe
  /-- `ILLEGAL_D3`: R200. -/
  | illegalD3
  /-- `PUSH DE`: R109. -/
  | pushDe
  /-- `RST 0x10`: R187. -/
  | rst10
  /-- `RET C`: R189. -/
  | retC
  /-- `RETI`: R190. -/
  | reti
  /-- `ILLEGAL_DB`: R200. -/
  | illegalDB
  /-- `ILLEGAL_DD`: R200. -/
  | illegalDD
  /-- `RST 0x18`: R187. -/
  | rst18
  /-- `POP HL`: R110. -/
  | popHl
  /-- `LD (C),A`: R105. -/
  | ldAtCA
  /-- `ILLEGAL_E3`: R200. -/
  | illegalE3
  /-- `ILLEGAL_E4`: R200. -/
  | illegalE4
  /-- `PUSH HL`: R109. -/
  | pushHl
  /-- `RST 0x20`: R187. -/
  | rst20
  /-- `JP HL`: R182. -/
  | jpHl
  /-- `ILLEGAL_EB`: R200. -/
  | illegalEB
  /-- `ILLEGAL_EC`: R200. -/
  | illegalEC
  /-- `ILLEGAL_ED`: R200. -/
  | illegalED
  /-- `RST 0x28`: R187. -/
  | rst28
  /-- `POP AF`: R111. -/
  | popAf
  /-- `LD A,(C)`: R104. -/
  | ldAAtC
  /-- `DI`: R192. -/
  | di
  /-- `ILLEGAL_F4`: R200. -/
  | illegalF4
  /-- `PUSH AF`: R109. -/
  | pushAf
  /-- `RST 0x30`: R187. -/
  | rst30
  /-- `LD SP,HL`: R108. -/
  | ldSpHl
  /-- `EI`: R193. -/
  | ei
  /-- `ILLEGAL_FC`: R200. -/
  | illegalFC
  /-- `ILLEGAL_FD`: R200. -/
  | illegalFD
  /-- `RST 0x38`: R187. -/
  | rst38
  /-- `PREFIX CB`: R75. -/
  | prefixCb
  /-- `RLC (HL)`: R158. -/
  | rlcAtHl
  /-- `RRC (HL)`: R160. -/
  | rrcAtHl
  /-- `RL (HL)`: R162. -/
  | rlAtHl
  /-- `RR (HL)`: R164. -/
  | rrAtHl
  /-- `SLA (HL)`: R166. -/
  | slaAtHl
  /-- `SRA (HL)`: R168. -/
  | sraAtHl
  /-- `SWAP (HL)`: R170. -/
  | swapAtHl
  /-- `SRL (HL)`: R172. -/
  | srlAtHl
  /-- `HALTING (sentinel)`: R196. -/
  | halting
  /-- `INT_CANCELLED`: R207. -/
  | intCancelled
deriving DecidableEq, Repr

end Sys2Proof
end

