-- ==== Sys2Proof/WellFormed.lean ====
section
/-! DEFINITION. Which instruction terms stand in a program's bytes as one whole instruction. Register names,
conditions and bit numbers cannot be out of range (they are types of their own); what is checked is that the
term is fetched at all (30_encoding.md R72) and that it is not the prefix alone (R75). -/

namespace Sys2Proof

/-- The pseudo-opcodes: step 3 of the CPU cycle makes them, no byte spells them (R71, R72). -/
def Instr.isPseudo : Instr → Bool
  | .halting => true
  | .interrupt _ => true
  | .intCancelled => true
  | _ => false

/-- The prefix row: the byte 0xCB alone is not yet an instruction (R75). -/
def Instr.isBarePrefix : Instr → Bool
  | .prefixCb => true
  | _ => false

/-- The term is one whole fetched instruction: not a pseudo-opcode, not the bare prefix. -/
def Instr.wellFormed (i : Instr) : Bool := !i.isPseudo && !i.isBarePrefix

end Sys2Proof
end

