-- ==== Sys2Proof/Decode.lean ====
section
/-! DEFINITION. Decoding and encoding (30_encoding.md). The decoder reads the fields x, y, z, p, q of R76 to R80; the
encoder lists the byte of every row as the maps R82 and R83 give it, so that the two check each other. -/

namespace Sys2Proof

/-! ### Bytes and words (R10, R61) -/

/-- `v[15:8]`. -/
def hiByte (w : Word) : Byte := w.extractLsb' 8 8

/-- `v[7:0]`. -/
def loByte (w : Word) : Byte := w.extractLsb' 0 8

/-- `(hi, lo)` as one word, `hi` the more significant part (R10). -/
def joinBytes (hi lo : Byte) : Word := hi ++ lo

/-! ### The rows of one shape, by their operand fields -/

/-- The row `LD d,r` (R87): destination first. -/
def Instr.ldRegReg : Reg8 → Reg8 → Instr
  | .b, .b => .ldBB
  | .b, .c => .ldBC
  | .b, .d => .ldBD
  | .b, .e => .ldBE
  | .b, .h => .ldBH
  | .b, .l => .ldBL
  | .b, .a => .ldBA
  | .c, .b => .ldCB
  | .c, .c => .ldCC
  | .c, .d => .ldCD
  | .c, .e => .ldCE
  | .c, .h => .ldCH
  | .c, .l => .ldCL
  | .c, .a => .ldCA
  | .d, .b => .ldDB
  | .d, .c => .ldDC
  | .d, .d => .ldDD
  | .d, .e => .ldDE
  | .d, .h => .ldDH
  | .d, .l => .ldDL
  | .d, .a => .ldDA
  | .e, .b => .ldEB
  | .e, .c => .ldEC
  | .e, .d => .ldED
  | .e, .e => .ldEE
  | .e, .h => .ldEH
  | .e, .l => .ldEL
  | .e, .a => .ldEA
  | .h, .b => .ldHB
  | .h, .c => .ldHC
  | .h, .d => .ldHD
  | .h, .e => .ldHE
  | .h, .h => .ldHH
  | .h, .l => .ldHL
  | .h, .a => .ldHA
  | .l, .b => .ldLB
  | .l, .c => .ldLC
  | .l, .d => .ldLD
  | .l, .e => .ldLE
  | .l, .h => .ldLH
  | .l, .l => .ldLL
  | .l, .a => .ldLA
  | .a, .b => .ldAB
  | .a, .c => .ldAC
  | .a, .d => .ldAD
  | .a, .e => .ldAE
  | .a, .h => .ldAH
  | .a, .l => .ldAL
  | .a, .a => .ldAA

/-- The row `LD r,n8` (R88). -/
def Instr.ldRegN8 : Reg8 → Byte → Instr
  | .b, n => .ldBN8 n
  | .c, n => .ldCN8 n
  | .d, n => .ldDN8 n
  | .e, n => .ldEN8 n
  | .h, n => .ldHN8 n
  | .l, n => .ldLN8 n
  | .a, n => .ldAN8 n

/-- The row `LD r,(HL)` (R89). -/
def Instr.ldRegAtHl : Reg8 → Instr
  | .b => .ldBAtHl
  | .c => .ldCAtHl
  | .d => .ldDAtHl
  | .e => .ldEAtHl
  | .h => .ldHAtHl
  | .l => .ldLAtHl
  | .a => .ldAAtHl

/-- The row `LD (HL),r` (R90). -/
def Instr.ldAtHlReg : Reg8 → Instr
  | .b => .ldAtHlB
  | .c => .ldAtHlC
  | .d => .ldAtHlD
  | .e => .ldAtHlE
  | .h => .ldAtHlH
  | .l => .ldAtHlL
  | .a => .ldAtHlA

/-- The row `INC r` (R138). -/
def Instr.incReg : Reg8 → Instr
  | .b => .incB
  | .c => .incC
  | .d => .incD
  | .e => .incE
  | .h => .incH
  | .l => .incL
  | .a => .incA

/-- The row `DEC r` (R140). -/
def Instr.decReg : Reg8 → Instr
  | .b => .decB
  | .c => .decC
  | .d => .decD
  | .e => .decE
  | .h => .decH
  | .l => .decL
  | .a => .decA

/-- The row `LD rr,n16` (R106). -/
def Instr.ldPairN16 : Pair → Word → Instr
  | .bc, w => .ldBcN16 w
  | .de, w => .ldDeN16 w
  | .hl, w => .ldHlN16 w
  | .sp, w => .ldSpN16 w

/-- The row `INC rr` (R146). -/
def Instr.incPair : Pair → Instr
  | .bc => .incBc
  | .de => .incDe
  | .hl => .incHl
  | .sp => .incSp

/-- The row `DEC rr` (R147). -/
def Instr.decPair : Pair → Instr
  | .bc => .decBc
  | .de => .decDe
  | .hl => .decHl
  | .sp => .decSp

/-- The row `ADD HL,rr` (R148). -/
def Instr.addHlPair : Pair → Instr
  | .bc => .addHlBc
  | .de => .addHlDe
  | .hl => .addHlHl
  | .sp => .addHlSp

/-- The row `PUSH rr` (R109). -/
def Instr.push : StackPair → Instr
  | .bc => .pushBc
  | .de => .pushDe
  | .hl => .pushHl
  | .af => .pushAf

/-- The row `POP rr` (R110, R111). -/
def Instr.pop : StackPair → Instr
  | .bc => .popBc
  | .de => .popDe
  | .hl => .popHl
  | .af => .popAf

/-- The row `op A,r` (R112, R113). -/
def Instr.aluReg : AluOp → Reg8 → Instr
  | .add, .b => .addAB
  | .add, .c => .addAC
  | .add, .d => .addAD
  | .add, .e => .addAE
  | .add, .h => .addAH
  | .add, .l => .addAL
  | .add, .a => .addAA
  | .adc, .b => .adcAB
  | .adc, .c => .adcAC
  | .adc, .d => .adcAD
  | .adc, .e => .adcAE
  | .adc, .h => .adcAH
  | .adc, .l => .adcAL
  | .adc, .a => .adcAA
  | .sub, .b => .subAB
  | .sub, .c => .subAC
  | .sub, .d => .subAD
  | .sub, .e => .subAE
  | .sub, .h => .subAH
  | .sub, .l => .subAL
  | .sub, .a => .subAA
  | .sbc, .b => .sbcAB
  | .sbc, .c => .sbcAC
  | .sbc, .d => .sbcAD
  | .sbc, .e => .sbcAE
  | .sbc, .h => .sbcAH
  | .sbc, .l => .sbcAL
  | .sbc, .a => .sbcAA
  | .and, .b => .andAB
  | .and, .c => .andAC
  | .and, .d => .andAD
  | .and, .e => .andAE
  | .and, .h => .andAH
  | .and, .l => .andAL
  | .and, .a => .andAA
  | .xor, .b => .xorAB
  | .xor, .c => .xorAC
  | .xor, .d => .xorAD
  | .xor, .e => .xorAE
  | .xor, .h => .xorAH
  | .xor, .l => .xorAL
  | .xor, .a => .xorAA
  | .or, .b => .orAB
  | .or, .c => .orAC
  | .or, .d => .orAD
  | .or, .e => .orAE
  | .or, .h => .orAH
  | .or, .l => .orAL
  | .or, .a => .orAA
  | .cp, .b => .cpAB
  | .cp, .c => .cpAC
  | .cp, .d => .cpAD
  | .cp, .e => .cpAE
  | .cp, .h => .cpAH
  | .cp, .l => .cpAL
  | .cp, .a => .cpAA

/-- The row `op A,(HL)` (R112, R113). -/
def Instr.aluAtHl : AluOp → Instr
  | .add => .addAAtHl
  | .adc => .adcAAtHl
  | .sub => .subAAtHl
  | .sbc => .sbcAAtHl
  | .and => .andAAtHl
  | .xor => .xorAAtHl
  | .or => .orAAtHl
  | .cp => .cpAAtHl

/-- The row `op A,n8` (R112, R113). -/
def Instr.aluN8 : AluOp → Byte → Instr
  | .add, n => .addAN8 n
  | .adc, n => .adcAN8 n
  | .sub, n => .subAN8 n
  | .sbc, n => .sbcAN8 n
  | .and, n => .andAN8 n
  | .xor, n => .xorAN8 n
  | .or, n => .orAN8 n
  | .cp, n => .cpAN8 n

/-- The CB row `op r` (R156). -/
def Instr.shiftReg : ShiftOp → Reg8 → Instr
  | .rlc, r => .rlcR r
  | .rrc, r => .rrcR r
  | .rl, r => .rlR r
  | .rr, r => .rrR r
  | .sla, r => .slaR r
  | .sra, r => .sraR r
  | .swap, r => .swapR r
  | .srl, r => .srlR r

/-- The CB row `op (HL)` (R156). -/
def Instr.shiftAtHl : ShiftOp → Instr
  | .rlc => .rlcAtHl
  | .rrc => .rrcAtHl
  | .rl => .rlAtHl
  | .rr => .rrAtHl
  | .sla => .slaAtHl
  | .sra => .sraAtHl
  | .swap => .swapAtHl
  | .srl => .srlAtHl

/-- The row `JR cc,e8` (R184). -/
def Instr.jrCond : Cond → Byte → Instr
  | .nz, e => .jrNzE8 e
  | .z, e => .jrZE8 e
  | .nc, e => .jrNcE8 e
  | .c, e => .jrCE8 e

/-- The row `JP cc,a16` (R181). -/
def Instr.jpCond : Cond → Word → Instr
  | .nz, w => .jpNzA16 w
  | .z, w => .jpZA16 w
  | .nc, w => .jpNcA16 w
  | .c, w => .jpCA16 w

/-- The row `CALL cc,a16` (R186). -/
def Instr.callCond : Cond → Word → Instr
  | .nz, w => .callNzA16 w
  | .z, w => .callZA16 w
  | .nc, w => .callNcA16 w
  | .c, w => .callCA16 w

/-- The row `RET cc` (R189). -/
def Instr.retCond : Cond → Instr
  | .nz => .retNz
  | .z => .retZ
  | .nc => .retNc
  | .c => .retC

/-- The row `RST 8y` (R187). -/
def Instr.rst : Fin 8 → Instr
  | 0 => .rst00
  | 1 => .rst08
  | 2 => .rst10
  | 3 => .rst18
  | 4 => .rst20
  | 5 => .rst28
  | 6 => .rst30
  | 7 => .rst38

/-! ### Fields (R76 to R80) -/

/-- Field `x` of an opcode byte: bits 7:6 (R76). -/
def fieldX (b : Byte) : Nat := b.toNat / 64

/-- Field `y`: bits 5:3. -/
def fieldY (b : Byte) : Nat := b.toNat / 8 % 8

/-- Field `z`: bits 2:0. -/
def fieldZ (b : Byte) : Nat := b.toNat % 8

/-- Field `p`: bits 5:4. -/
def fieldP (b : Byte) : Nat := b.toNat / 16 % 4

/-- Field `q`: bit 3, true for 1. -/
def fieldQ (b : Byte) : Bool := b.getLsbD 3

/-- The register that a value of field `y` or `z` names, `none` for 6, the memory operand (HL) (R77). -/
def Reg8.ofField : Nat → Option Reg8
  | 0 => some .b
  | 1 => some .c
  | 2 => some .d
  | 3 => some .e
  | 4 => some .h
  | 5 => some .l
  | 6 => none
  | _ => some .a

/-- The field value that names a register (R77). -/
def Reg8.field : Reg8 → Nat
  | .b => 0
  | .c => 1
  | .d => 2
  | .e => 3
  | .h => 4
  | .l => 5
  | .a => 7

/-- Table `rp` (R78). -/
def Pair.ofField : Nat → Pair
  | 0 => .bc
  | 1 => .de
  | 2 => .hl
  | _ => .sp

/-- The field value of a pair in table `rp` (R78). -/
def Pair.field : Pair → Nat
  | .bc => 0
  | .de => 1
  | .hl => 2
  | .sp => 3

/-- Table `rp2` (R78). -/
def StackPair.ofField : Nat → StackPair
  | 0 => .bc
  | 1 => .de
  | 2 => .hl
  | _ => .af

/-- The field value of a pair in table `rp2` (R78). -/
def StackPair.field : StackPair → Nat
  | .bc => 0
  | .de => 1
  | .hl => 2
  | .af => 3

/-- Condition field (R79). -/
def Cond.ofField : Nat → Cond
  | 0 => .nz
  | 1 => .z
  | 2 => .nc
  | _ => .c

/-- The field value of a condition (R79). -/
def Cond.field : Cond → Nat
  | .nz => 0
  | .z => 1
  | .nc => 2
  | .c => 3

/-- ALU operation field (R80). -/
def AluOp.ofField : Nat → AluOp
  | 0 => .add
  | 1 => .adc
  | 2 => .sub
  | 3 => .sbc
  | 4 => .and
  | 5 => .xor
  | 6 => .or
  | _ => .cp

/-- The field value of an ALU operation (R80). -/
def AluOp.field : AluOp → Nat
  | .add => 0
  | .adc => 1
  | .sub => 2
  | .sbc => 3
  | .and => 4
  | .xor => 5
  | .or => 6
  | .cp => 7

/-- Rotate and shift field (R80). -/
def ShiftOp.ofField : Nat → ShiftOp
  | 0 => .rlc
  | 1 => .rrc
  | 2 => .rl
  | 3 => .rr
  | 4 => .sla
  | 5 => .sra
  | 6 => .swap
  | _ => .srl

/-- The field value of a rotate or shift (R80). -/
def ShiftOp.field : ShiftOp → Nat
  | .rlc => 0
  | .rrc => 1
  | .rl => 2
  | .rr => 3
  | .sla => 4
  | .sra => 5
  | .swap => 6
  | .srl => 7

/-- The 3-bit number in field `y`: a bit number b or an RST index (R81). -/
def bitField (b : Byte) : Fin 8 := ⟨fieldY b, Nat.mod_lt _ (by decide)⟩

/-! ### The decoder -/

/-- Quadrant x = 0 (R82, rows 0x to 3x): `n` is byte 1, `w` the 16-bit operand of bytes 1 and 2 (R81). -/
def decodeX0 (b n : Byte) (w : Word) : Instr :=
  match fieldZ b with
  | 0 =>
    match fieldY b with
    | 0 => .nop
    | 1 => .ldAtA16Sp w
    | 2 => .stop n
    | 3 => .jrE8 n
    | y => .jrCond (Cond.ofField (y - 4)) n
  | 1 => if fieldQ b then .addHlPair (Pair.ofField (fieldP b)) else .ldPairN16 (Pair.ofField (fieldP b)) w
  | 2 =>
    match fieldY b with
    | 0 => .ldAtBcA
    | 1 => .ldAAtBc
    | 2 => .ldAtDeA
    | 3 => .ldAAtDe
    | 4 => .ldAtHlIncA
    | 5 => .ldAAtHlInc
    | 6 => .ldAtHlDecA
    | _ => .ldAAtHlDec
  | 3 => if fieldQ b then .decPair (Pair.ofField (fieldP b)) else .incPair (Pair.ofField (fieldP b))
  | 4 => match Reg8.ofField (fieldY b) with
    | some r => .incReg r
    | none => .incAtHl
  | 5 => match Reg8.ofField (fieldY b) with
    | some r => .decReg r
    | none => .decAtHl
  | 6 => match Reg8.ofField (fieldY b) with
    | some r => .ldRegN8 r n
    | none => .ldAtHlN8 n
  | _ =>
    match fieldY b with
    | 0 => .rlca
    | 1 => .rrca
    | 2 => .rla
    | 3 => .rra
    | 4 => .daa
    | 5 => .cpl
    | 6 => .scf
    | _ => .ccf

/-- Quadrant x = 1 (R82, rows 4x to 7x): the 8-bit loads and HALT. -/
def decodeX1 (b : Byte) : Instr :=
  match Reg8.ofField (fieldY b), Reg8.ofField (fieldZ b) with
  | some dst, some src => .ldRegReg dst src
  | some dst, none => .ldRegAtHl dst
  | none, some src => .ldAtHlReg src
  | none, none => .halt

/-- Quadrant x = 2 (R82, rows 8x to Bx): the ALU on a register or on (HL). -/
def decodeX2 (b : Byte) : Instr :=
  match Reg8.ofField (fieldZ b) with
  | some r => .aluReg (AluOp.ofField (fieldY b)) r
  | none => .aluAtHl (AluOp.ofField (fieldY b))

/-- A CB instruction by its second byte (R75, R76, R80, R83). -/
def decodeCb (b : Byte) : Instr :=
  match fieldX b, Reg8.ofField (fieldZ b) with
  | 0, some r => .shiftReg (ShiftOp.ofField (fieldY b)) r
  | 0, none => .shiftAtHl (ShiftOp.ofField (fieldY b))
  | 1, some r => .bitBR (bitField b) r
  | 1, none => .bitBAtHl (bitField b)
  | 2, some r => .resBR (bitField b) r
  | 2, none => .resBAtHl (bitField b)
  | _, some r => .setBR (bitField b) r
  | _, none => .setBAtHl (bitField b)

/-- Quadrant x = 3 (R82, rows Cx to Fx), the 11 illegal bytes of R84 among them; after the prefix 0xCB, byte 1 selects the
CB instruction. -/
def decodeX3 (b n : Byte) (w : Word) : Instr :=
  match fieldZ b with
  | 0 =>
    match fieldY b with
    | 4 => .ldhAtA8A n
    | 5 => .addSpE8 n
    | 6 => .ldhAAtA8 n
    | 7 => .ldHlSpE8 n
    | y => .retCond (Cond.ofField y)
  | 1 =>
    match fieldY b with
    | 1 => .ret
    | 3 => .reti
    | 5 => .jpHl
    | 7 => .ldSpHl
    | _ => .pop (StackPair.ofField (fieldP b))
  | 2 =>
    match fieldY b with
    | 4 => .ldAtCA
    | 5 => .ldAtA16A w
    | 6 => .ldAAtC
    | 7 => .ldAAtA16 w
    | y => .jpCond (Cond.ofField y) w
  | 3 =>
    match fieldY b with
    | 0 => .jpA16 w
    | 1 => decodeCb n
    | 2 => .illegalD3
    | 3 => .illegalDB
    | 4 => .illegalE3
    | 5 => .illegalEB
    | 6 => .di
    | _ => .ei
  | 4 =>
    match fieldY b with
    | 4 => .illegalE4
    | 5 => .illegalEC
    | 6 => .illegalF4
    | 7 => .illegalFC
    | y => .callCond (Cond.ofField y) w
  | 5 =>
    match fieldY b with
    | 1 => .callA16 w
    | 3 => .illegalDD
    | 5 => .illegalED
    | 7 => .illegalFD
    | _ => .push (StackPair.ofField (fieldP b))
  | 6 => .aluN8 (AluOp.ofField (fieldY b)) n
  | _ => .rst (bitField b)

/-- The instruction spelled by three bytes; bytes past the instruction's own length do not matter. Total: every first byte is
a row of the table (R72, R82). -/
def decode3 (b0 b1 b2 : Byte) : Instr :=
  match fieldX b0 with
  | 0 => decodeX0 b0 b1 (joinBytes b2 b1)
  | 1 => decodeX1 b0
  | 2 => decodeX2 b0
  | _ => decodeX3 b0 b1 (joinBytes b2 b1)

/-- The length of an instruction from its first byte alone (R74). -/
def instrLength (b0 : Byte) : Nat :=
  match fieldX b0, fieldZ b0 with
  | 0, 0 => if fieldY b0 = 0 then 1 else if fieldY b0 = 1 then 3 else 2
  | 0, 1 => if fieldQ b0 then 1 else 3
  | 0, 6 => 2
  | 3, 0 => if fieldY b0 < 4 then 1 else 2
  | 3, 2 => if fieldY b0 = 4 ∨ fieldY b0 = 6 then 1 else 3
  | 3, 3 => if fieldY b0 = 0 then 3 else if fieldY b0 = 1 then 2 else 1
  | 3, 4 => if fieldY b0 < 4 then 3 else 1
  | 3, 5 => if fieldY b0 = 1 then 3 else 1
  | 3, 6 => 2
  | _, _ => 1

/-- Why a list of bytes spells no instruction. Every first byte is a row of the table, so the only reasons are missing bytes. -/
inductive DecodeError where
  /-- There is no byte at all. -/
  | noBytes
  /-- The first byte asks for operand bytes that the list does not hold. -/
  | truncated (first : Byte)
deriving DecidableEq, Repr

/-- Decode the instruction at the head of a list of bytes and give the rest of the list. The byte 0xCB with nothing after it is
the table's own row for the prefix (log 8); any other list too short for its first byte is refused. -/
def decode : List Byte → Except DecodeError (Instr × List Byte)
  | [] => .error .noBytes
  | b0 :: rest =>
    match instrLength b0, rest with
    | 1, _ => .ok (decode3 b0 0 0, rest)
    | 2, b1 :: rest' => .ok (decode3 b0 b1 0, rest')
    | 3, b1 :: b2 :: rest' => .ok (decode3 b0 b1 b2, rest')
    | _, [] => if b0 = 0xCB then .ok (.prefixCb, []) else .error (.truncated b0)
    | _, _ => .error (.truncated b0)

/-! ### The encoder -/

/-- The byte with fields x, y, z (R76). -/
def opByte (x y z : Nat) : Byte := BitVec.ofNat 8 (64 * x + 8 * y + z)

/-- The bytes of an instruction, the first at the lowest address (R73, R82, R83). The pseudo-opcodes have none. -/
def encode : Instr → List Byte
  | .nop => [0x00]
  | .ldBcN16 w => [0x01, loByte w, hiByte w]
  | .ldAtBcA => [0x02]
  | .incBc => [0x03]
  | .incB => [0x04]
  | .decB => [0x05]
  | .ldBN8 n => [0x06, n]
  | .rlca => [0x07]
  | .ldAtA16Sp w => [0x08, loByte w, hiByte w]
  | .addHlBc => [0x09]
  | .ldAAtBc => [0x0A]
  | .decBc => [0x0B]
  | .incC => [0x0C]
  | .decC => [0x0D]
  | .ldCN8 n => [0x0E, n]
  | .rrca => [0x0F]
  | .stop n => [0x10, n]
  | .ldDeN16 w => [0x11, loByte w, hiByte w]
  | .ldAtDeA => [0x12]
  | .incDe => [0x13]
  | .incD => [0x14]
  | .decD => [0x15]
  | .ldDN8 n => [0x16, n]
  | .rla => [0x17]
  | .jrE8 e => [0x18, e]
  | .addHlDe => [0x19]
  | .ldAAtDe => [0x1A]
  | .decDe => [0x1B]
  | .incE => [0x1C]
  | .decE => [0x1D]
  | .ldEN8 n => [0x1E, n]
  | .rra => [0x1F]
  | .jrNzE8 e => [0x20, e]
  | .ldHlN16 w => [0x21, loByte w, hiByte w]
  | .ldAtHlIncA => [0x22]
  | .incHl => [0x23]
  | .incH => [0x24]
  | .decH => [0x25]
  | .ldHN8 n => [0x26, n]
  | .daa => [0x27]
  | .jrZE8 e => [0x28, e]
  | .addHlHl => [0x29]
  | .ldAAtHlInc => [0x2A]
  | .decHl => [0x2B]
  | .incL => [0x2C]
  | .decL => [0x2D]
  | .ldLN8 n => [0x2E, n]
  | .cpl => [0x2F]
  | .jrNcE8 e => [0x30, e]
  | .ldSpN16 w => [0x31, loByte w, hiByte w]
  | .ldAtHlDecA => [0x32]
  | .incSp => [0x33]
  | .incAtHl => [0x34]
  | .decAtHl => [0x35]
  | .ldAtHlN8 n => [0x36, n]
  | .scf => [0x37]
  | .jrCE8 e => [0x38, e]
  | .addHlSp => [0x39]
  | .ldAAtHlDec => [0x3A]
  | .decSp => [0x3B]
  | .incA => [0x3C]
  | .decA => [0x3D]
  | .ldAN8 n => [0x3E, n]
  | .ccf => [0x3F]
  | .ldBB => [0x40]
  | .ldBC => [0x41]
  | .ldBD => [0x42]
  | .ldBE => [0x43]
  | .ldBH => [0x44]
  | .ldBL => [0x45]
  | .ldBAtHl => [0x46]
  | .ldBA => [0x47]
  | .ldCB => [0x48]
  | .ldCC => [0x49]
  | .ldCD => [0x4A]
  | .ldCE => [0x4B]
  | .ldCH => [0x4C]
  | .ldCL => [0x4D]
  | .ldCAtHl => [0x4E]
  | .ldCA => [0x4F]
  | .ldDB => [0x50]
  | .ldDC => [0x51]
  | .ldDD => [0x52]
  | .ldDE => [0x53]
  | .ldDH => [0x54]
  | .ldDL => [0x55]
  | .ldDAtHl => [0x56]
  | .ldDA => [0x57]
  | .ldEB => [0x58]
  | .ldEC => [0x59]
  | .ldED => [0x5A]
  | .ldEE => [0x5B]
  | .ldEH => [0x5C]
  | .ldEL => [0x5D]
  | .ldEAtHl => [0x5E]
  | .ldEA => [0x5F]
  | .ldHB => [0x60]
  | .ldHC => [0x61]
  | .ldHD => [0x62]
  | .ldHE => [0x63]
  | .ldHH => [0x64]
  | .ldHL => [0x65]
  | .ldHAtHl => [0x66]
  | .ldHA => [0x67]
  | .ldLB => [0x68]
  | .ldLC => [0x69]
  | .ldLD => [0x6A]
  | .ldLE => [0x6B]
  | .ldLH => [0x6C]
  | .ldLL => [0x6D]
  | .ldLAtHl => [0x6E]
  | .ldLA => [0x6F]
  | .ldAtHlB => [0x70]
  | .ldAtHlC => [0x71]
  | .ldAtHlD => [0x72]
  | .ldAtHlE => [0x73]
  | .ldAtHlH => [0x74]
  | .ldAtHlL => [0x75]
  | .halt => [0x76]
  | .ldAtHlA => [0x77]
  | .ldAB => [0x78]
  | .ldAC => [0x79]
  | .ldAD => [0x7A]
  | .ldAE => [0x7B]
  | .ldAH => [0x7C]
  | .ldAL => [0x7D]
  | .ldAAtHl => [0x7E]
  | .ldAA => [0x7F]
  | .addAB => [0x80]
  | .addAC => [0x81]
  | .addAD => [0x82]
  | .addAE => [0x83]
  | .addAH => [0x84]
  | .addAL => [0x85]
  | .addAAtHl => [0x86]
  | .addAA => [0x87]
  | .adcAB => [0x88]
  | .adcAC => [0x89]
  | .adcAD => [0x8A]
  | .adcAE => [0x8B]
  | .adcAH => [0x8C]
  | .adcAL => [0x8D]
  | .adcAAtHl => [0x8E]
  | .adcAA => [0x8F]
  | .subAB => [0x90]
  | .subAC => [0x91]
  | .subAD => [0x92]
  | .subAE => [0x93]
  | .subAH => [0x94]
  | .subAL => [0x95]
  | .subAAtHl => [0x96]
  | .subAA => [0x97]
  | .sbcAB => [0x98]
  | .sbcAC => [0x99]
  | .sbcAD => [0x9A]
  | .sbcAE => [0x9B]
  | .sbcAH => [0x9C]
  | .sbcAL => [0x9D]
  | .sbcAAtHl => [0x9E]
  | .sbcAA => [0x9F]
  | .andAB => [0xA0]
  | .andAC => [0xA1]
  | .andAD => [0xA2]
  | .andAE => [0xA3]
  | .andAH => [0xA4]
  | .andAL => [0xA5]
  | .andAAtHl => [0xA6]
  | .andAA => [0xA7]
  | .xorAB => [0xA8]
  | .xorAC => [0xA9]
  | .xorAD => [0xAA]
  | .xorAE => [0xAB]
  | .xorAH => [0xAC]
  | .xorAL => [0xAD]
  | .xorAAtHl => [0xAE]
  | .xorAA => [0xAF]
  | .orAB => [0xB0]
  | .orAC => [0xB1]
  | .orAD => [0xB2]
  | .orAE => [0xB3]
  | .orAH => [0xB4]
  | .orAL => [0xB5]
  | .orAAtHl => [0xB6]
  | .orAA => [0xB7]
  | .cpAB => [0xB8]
  | .cpAC => [0xB9]
  | .cpAD => [0xBA]
  | .cpAE => [0xBB]
  | .cpAH => [0xBC]
  | .cpAL => [0xBD]
  | .cpAAtHl => [0xBE]
  | .cpAA => [0xBF]
  | .retNz => [0xC0]
  | .popBc => [0xC1]
  | .jpNzA16 w => [0xC2, loByte w, hiByte w]
  | .jpA16 w => [0xC3, loByte w, hiByte w]
  | .callNzA16 w => [0xC4, loByte w, hiByte w]
  | .pushBc => [0xC5]
  | .addAN8 n => [0xC6, n]
  | .rst00 => [0xC7]
  | .retZ => [0xC8]
  | .ret => [0xC9]
  | .jpZA16 w => [0xCA, loByte w, hiByte w]
  | .callZA16 w => [0xCC, loByte w, hiByte w]
  | .callA16 w => [0xCD, loByte w, hiByte w]
  | .adcAN8 n => [0xCE, n]
  | .rst08 => [0xCF]
  | .retNc => [0xD0]
  | .popDe => [0xD1]
  | .jpNcA16 w => [0xD2, loByte w, hiByte w]
  | .illegalD3 => [0xD3]
  | .callNcA16 w => [0xD4, loByte w, hiByte w]
  | .pushDe => [0xD5]
  | .subAN8 n => [0xD6, n]
  | .rst10 => [0xD7]
  | .retC => [0xD8]
  | .reti => [0xD9]
  | .jpCA16 w => [0xDA, loByte w, hiByte w]
  | .illegalDB => [0xDB]
  | .callCA16 w => [0xDC, loByte w, hiByte w]
  | .illegalDD => [0xDD]
  | .sbcAN8 n => [0xDE, n]
  | .rst18 => [0xDF]
  | .ldhAtA8A o => [0xE0, o]
  | .popHl => [0xE1]
  | .ldAtCA => [0xE2]
  | .illegalE3 => [0xE3]
  | .illegalE4 => [0xE4]
  | .pushHl => [0xE5]
  | .andAN8 n => [0xE6, n]
  | .rst20 => [0xE7]
  | .addSpE8 e => [0xE8, e]
  | .jpHl => [0xE9]
  | .ldAtA16A w => [0xEA, loByte w, hiByte w]
  | .illegalEB => [0xEB]
  | .illegalEC => [0xEC]
  | .illegalED => [0xED]
  | .xorAN8 n => [0xEE, n]
  | .rst28 => [0xEF]
  | .ldhAAtA8 o => [0xF0, o]
  | .popAf => [0xF1]
  | .ldAAtC => [0xF2]
  | .di => [0xF3]
  | .illegalF4 => [0xF4]
  | .pushAf => [0xF5]
  | .orAN8 n => [0xF6, n]
  | .rst30 => [0xF7]
  | .ldHlSpE8 e => [0xF8, e]
  | .ldSpHl => [0xF9]
  | .ldAAtA16 w => [0xFA, loByte w, hiByte w]
  | .ei => [0xFB]
  | .illegalFC => [0xFC]
  | .illegalFD => [0xFD]
  | .cpAN8 n => [0xFE, n]
  | .rst38 => [0xFF]
  | .prefixCb => [0xCB]
  | .rlcR r => [0xCB, opByte 0 0 r.field]
  | .rlcAtHl => [0xCB, opByte 0 0 6]
  | .rrcR r => [0xCB, opByte 0 1 r.field]
  | .rrcAtHl => [0xCB, opByte 0 1 6]
  | .rlR r => [0xCB, opByte 0 2 r.field]
  | .rlAtHl => [0xCB, opByte 0 2 6]
  | .rrR r => [0xCB, opByte 0 3 r.field]
  | .rrAtHl => [0xCB, opByte 0 3 6]
  | .slaR r => [0xCB, opByte 0 4 r.field]
  | .slaAtHl => [0xCB, opByte 0 4 6]
  | .sraR r => [0xCB, opByte 0 5 r.field]
  | .sraAtHl => [0xCB, opByte 0 5 6]
  | .swapR r => [0xCB, opByte 0 6 r.field]
  | .swapAtHl => [0xCB, opByte 0 6 6]
  | .srlR r => [0xCB, opByte 0 7 r.field]
  | .srlAtHl => [0xCB, opByte 0 7 6]
  | .bitBR b r => [0xCB, opByte 1 b.val r.field]
  | .bitBAtHl b => [0xCB, opByte 1 b.val 6]
  | .resBR b r => [0xCB, opByte 2 b.val r.field]
  | .resBAtHl b => [0xCB, opByte 2 b.val 6]
  | .setBR b r => [0xCB, opByte 3 b.val r.field]
  | .setBAtHl b => [0xCB, opByte 3 b.val 6]
  | .halting => []
  | .interrupt _ => []
  | .intCancelled => []

/-! ### The host's numbering of table words -/

/-- The bytes in memory of the table word `w` of `nbits` bits, the first byte at the lowest address. The first byte is the least
significant one, but a two-byte row of the table (a CB row) is numbered with its first byte, 0xCB, on top; the row of the bare
prefix is the one byte 0xCB (log 8). -/
def tableBytes (nbits w : Nat) : List Byte :=
  if nbits ≤ 8 ∧ w % 256 = 0xCB then [0xCB]
  else if nbits = 16 ∧ w / 256 % 256 = 0xCB then [0xCB, BitVec.ofNat 8 w, 0]
  else [BitVec.ofNat 8 w, BitVec.ofNat 8 (w / 256), BitVec.ofNat 8 (w / 65536)]

/-- The instruction that the decoder reads from a table word; every bit above `nbits` is 0. -/
def decodeTableWord (nbits w : Nat) : Option Instr :=
  match decode (tableBytes nbits w) with
  | .ok (i, _) => some i
  | .error _ => none

end Sys2Proof
end

