-- ==== Sys2Proof/Config.lean ====
section
/-! DEFINITION. What one machine of this hardware fixes, and the values the spec leaves open: the draws of
the parameter `ENV` and the answers of a cartridge controller the block does not contain. -/

namespace Sys2Proof

/-- The five answers of a cartridge controller that the block queries (20_memory.md R60): the ROM bank
behind each ROM window, the cartridge RAM bank, and whether that RAM is present and enabled. -/
structure CartAnswers where
  romBankA : Nat
  romBankB : Nat
  sramBank : Nat
  ramPresent : Bool
  ramEnabled : Bool
deriving DecidableEq, Repr, Inhabited

/-- The byte that the n-th draw of the environment gives a CPU load (60_exceptions.md R236: "any u8").
A free value: it has no body (log 3). -/
opaque Config.envByte : Nat → Byte

/-- Whether the n-th draw of the environment requests the Serial interrupt (R237). A free value (log 3). -/
opaque Config.envSerial : Nat → Bool

/-- Whether the n-th draw of the environment requests the Joypad interrupt (R237). A free value (log 3). -/
opaque Config.envJoypad : Nat → Bool

/-- What a controller outside the block answers after the n-th draw, a store of a byte to an address of its control
registers, where its answers before were these (R60: the block queries it "after any bank-select register write"). A free value (log 4). -/
opaque Config.cartAnswers : Nat → CartAnswers → Word → Byte → CartAnswers

/-- The backing stores of bytes (20_memory.md R49): the block's own RAM (VRAM, WRAM0, WRAM1, OAM, HRAM),
the boot ROM image, the cartridge ROM image and the cartridge RAM. -/
inductive Buffer where
  | ram
  | bootRom
  | cartRom
  | cartRam
deriving DecidableEq, Repr

/-- What a byte that a buffer does not list reads as. RAM: the default of `RAM_INIT`, zero (R9, D22).
Boot image: 0xFF, what R53 gives an offset past the image. Cartridge image: zero, the blank cartridge of
`State.reset`. DESIGN CHOICE (log 1, log 2). -/
def Config.unlisted : Buffer → Byte
  | .ram => 0x00
  | .bootRom => 0xFF
  | .cartRom => 0x00
  | .cartRam => 0x00

/-- Default of the parameter `ACCESS_LOCK` (R9, D35). -/
def Config.accessLock : Bool := true

/-- Default of the parameter `DRAW_START_DELAY`, whose range is 0..100 (R9, R221, D27). -/
def Config.drawStartDelay : Fin 101 := 0

/-- The length of the cartridge image of `State.reset`: the shortest that R9 allows. DESIGN CHOICE (log 1). -/
def Config.blankCartLen : Nat := 32768

end Sys2Proof
end

