-- ==== Sys2Proof/Machine/State.lean ====
section
/-! DEFINITION. The state of the block as plain data: every piece of state that 10_state.md names, the parameters of
00_scope.md R9 that a claim should hold for all values of, the outputs of 60_exceptions.md R238, the reasons a tick can
stop, and the state after reset (70_reset_and_hazards.md R240). -/

namespace Sys2Proof.Machine

/-- A sparse byte store: (key, byte) pairs in one canonical form (Machine/Memory.lean), keys strictly rising and no byte equal to
what an unlisted key reads as. -/
abbrev Memory := List Host.Cell

/-! ### Why a tick can stop -/

/-- The one fault of the block (60_exceptions.md R201). -/
inductive Fault where
  /-- Raised by the 11 illegal opcodes (45_system.md R200, "Unknown opcodes are fatal"). Safe: the model stops where the spec
  says the machine stops. Records the address of the byte, the opcode, and PC after the fetch. -/
  | unknownOpcode (instrAddr : Word) (opcode : Byte) (pc : Word)
deriving DecidableEq, Repr

/-- Why the model gives no meaning. -/
inductive Refusal where
  /-- An arm of `exec` with no meaning yet. No arm answers with it. Safe. -/
  | notModelled (mnemonic : String)
  /-- Raised by STOP (45_system.md R199: `refuse("STOP not modelled")`). Safe: the spec gives STOP no behaviour. Records the
  instruction address. -/
  | stopNotModelled (instrAddr : Word)
  /-- Raised by construction: the boot image is empty or longer than 256 bytes (70_reset_and_hazards.md R239). Safe. -/
  | badBootRom (length : Nat)
  /-- Raised by construction: the cartridge image is shorter than 32768 bytes or no multiple of 16384 (R239). Safe. -/
  | badCartRom (length : Nat)
  /-- Raised by construction: the cartridge names a controller that is not supported (R239). Safe. -/
  | unsupportedController
deriving DecidableEq, Repr

/-! ### The CPU -/

/-- The register file (10_state.md R19, R23, R24). The pairs are the halves seen together (R20). -/
structure Regs where
  a : Byte
  f : Byte
  b : Byte
  c : Byte
  d : Byte
  e : Byte
  h : Byte
  l : Byte
  sp : Word
  pc : Word
deriving DecidableEq, Repr

/-- What a CPU cycle executes: a first byte, a CB opcode by its second byte, or a sentinel (30_encoding.md R71, R72). -/
inductive OpcodeId where
  | byte (b : Byte)
  | cb (b : Byte)
  | halting
  | interrupt (k : IrqSource)
  | intCancelled
deriving DecidableEq, Repr

/-- The control state of 10_state.md R26. -/
structure Cpu where
  ime : Bool
  halted : Bool
  eiDelay : Nat
  haltBug : Bool
  cpuWait : Nat
  instrAddr : Word
  opcode : OpcodeId
  fault : Option Fault
  refused : Option Refusal
deriving DecidableEq, Repr

/-- IF bits 4:0 (R32) and IE (R33). -/
structure Irq where
  ifl : BitVec 5
  ie : Byte
deriving DecidableEq, Repr

/-! ### The timer -/

/-- The overflow phases, with the ticks left, 4 down to 1 (R43, 60_exceptions.md R215). -/
inductive TimerPhase where
  | idle
  | a (ticksLeft : Nat)
  | b (ticksLeft : Nat)
deriving DecidableEq, Repr

/-- The timer of R28 to R31 and R43: DIV is the top byte of `counter`; `signal` is the last sampled multiplexer output. -/
structure Timer where
  counter : Word
  tima : Byte
  tma : Byte
  tac : BitVec 3
  phase : TimerPhase
  signal : Bool
deriving DecidableEq, Repr

/-! ### The pixel pipeline -/

/-- The LCD registers of R34 to R41; `statEn` is STAT[6:3]. -/
structure Lcd where
  lcdc : Byte
  statEn : BitVec 4
  scy : Byte
  scx : Byte
  lyc : Byte
  bgp : Byte
  obp0 : Byte
  obp1 : Byte
  wy : Byte
  wx : Byte
deriving DecidableEq, Repr

/-- The render modes (R44). -/
inductive PpuMode where
  | hblank
  | vblank
  | oamScan
  | draw
deriving DecidableEq, Repr

/-- A colour index or a shade, 0..3. -/
abbrev Colour := BitVec 2

/-- An object found by the OAM scan (R44, 60_exceptions.md R220). -/
structure ObjEntry where
  idx : Nat
  y : Byte
  x : Byte
  done : Bool
deriving DecidableEq, Repr

/-- A slot of the object pixel queue; colour 0 is transparent (R44). `pal` is true for OBP1. -/
structure ObjPixel where
  c : Colour
  pal : Bool
  prio : Bool
deriving DecidableEq, Repr

/-- The transparent slot. -/
def ObjPixel.transparent : ObjPixel := { c := 0, pal := false, prio := false }

/-- The tile source of the fetcher (R44). -/
inductive TileSrc where
  | bg
  | win
deriving DecidableEq, Repr

/-- The background and window fetcher (R44, R223). -/
structure Fetch where
  stage : Nat
  tileX : Byte
  src : TileSrc
  tileId : Byte
  lo : Byte
  hi : Byte
deriving DecidableEq, Repr

/-- The object fetcher (R44, R225); `obj` is the index of its object in `Ppu.objs`. -/
structure ObjFetch where
  active : Bool
  stage : Nat
  obj : Nat
  tile : Byte
  attr : Byte
  lo : Byte
  hi : Byte
deriving DecidableEq, Repr

/-- The pixel pipeline state of R44. -/
structure Ppu where
  on : Bool
  line : Nat
  dot : Nat
  mode : PpuMode
  objs : List ObjEntry
  bgFifo : List Colour
  objFifo : List ObjPixel
  fetch : Fetch
  ofetch : ObjFetch
  lx : Nat
  discard : Nat
  delay : Nat
  wyLatch : Bool
  wxLatch : Bool
  winActive : Bool
  winLine : Byte
  statLine : Bool
  suppress : Nat
deriving DecidableEq, Repr

/-! ### DMA, bus, cartridge, environment -/

/-- The OAM DMA engine (R45) and its register (R39). -/
structure Dma where
  reg : Byte
  active : Bool
  src : Word
  index : Nat
  count : Nat
deriving DecidableEq, Repr

/-- The overlay flag (R46, 20_memory.md R51) and the backing buffers (R49). `ram` holds VRAM, WRAM0, WRAM1, OAM and HRAM, keyed by
main-bus address; the images and the cartridge RAM are keyed by offset. -/
structure Bus where
  bootOverlay : Bool
  ram : Memory
  bootRom : Memory
  cartRom : Memory
  cartRomLen : Nat
  cartRam : Memory
deriving DecidableEq, Repr

/-- The two-place operations of a controller expression, on natural numbers. -/
inductive CartOp where
  | add
  | sub
  | and
  | or
  | shl
  | shr
deriving DecidableEq, Repr

/-- An expression over a controller's own state and, in a store hook, the address and the byte of the store: the plain data that a
controller given as an argument is written in (log 20). -/
inductive CartExpr where
  | const (n : Nat)
  | state
  | addr
  | value
  | op (f : CartOp) (x y : CartExpr)
  | ifLt (x y lt ge : CartExpr)
deriving DecidableEq, Repr

/-- The controller record, the parameter `CART` of 00_scope.md R9: the five answers as expressions over the controller's state
(a Bool answer is true where its expression is not 0), and the store hook, the state after `store(addr, v)` (20_memory.md R60). -/
structure CartRecord where
  romBankA : CartExpr
  romBankB : CartExpr
  sramBank : CartExpr
  ramPresent : CartExpr
  ramEnabled : CartExpr
  store : CartExpr
deriving DecidableEq, Repr

/-- The cartridge's bank controller (20_memory.md R60): the default ROM-only one (D38), the example controller of
95_test_vectors.md L1-10, one given by its record with its present state (log 20), or one of which nothing is given but its present
answers (log 4). -/
inductive Controller where
  | romOnly
  | bank5 (bank : BitVec 5)
  | given (record : CartRecord) (state : Nat)
  | external (answers : CartAnswers)
deriving DecidableEq, Repr

/-- Where the environment's draws come from: any values at all (the default of R9), or the closed machine of 60_exceptions.md R237,
"no requests, loads return 0xFF". -/
inductive EnvSource where
  | unconstrained
  | closed
deriving DecidableEq, Repr

/-- The parameter `ENV` (R9) and how many of its values have been drawn: the model's own counter, which picks the next free
value (log 3). -/
structure Env where
  source : EnvSource
  draws : Nat
deriving DecidableEq, Repr

/-- The parameters of R9 that a claim should hold for all values of (log 5). No step changes them. -/
structure Params where
  accessLock : Bool
  drawStartDelay : Fin 101
deriving DecidableEq, Repr

/-! ### Outputs -/

/-- A trace record (60_exceptions.md R212). -/
structure TraceRecord where
  instrAddr : Word
  opcode : OpcodeId
  regs : Regs
  halted : Bool
  ime : Bool
deriving DecidableEq, Repr

/-- One call `consumeImage(x, y, shade)` (R238). -/
structure Pixel where
  x : Nat
  y : Nat
  shade : Colour
deriving DecidableEq, Repr

/-- The outputs so far, newest first (R238, R242). -/
structure Outputs where
  trace : List TraceRecord
  image : List Pixel
deriving DecidableEq, Repr

/-! ### The whole machine -/

/-- The state of the block. -/
structure State where
  regs : Regs
  cpu : Cpu
  irq : Irq
  timer : Timer
  lcd : Lcd
  ppu : Ppu
  dma : Dma
  bus : Bus
  cart : Controller
  env : Env
  params : Params
  out : Outputs
  ticks : Nat
deriving DecidableEq, Repr

/-- What a step or a meaning answers. -/
abbrev Out := Host.Outcome State Fault Refusal

/-- The machine right after reset (70_reset_and_hazards.md R240; the reset columns of 10_state.md R26, R27, R43 to R46). The values
that the spec does not give are those of log 1, log 3 and log 15. -/
def State.reset : State where
  regs := { a := 0, f := 0, b := 0, c := 0, d := 0, e := 0, h := 0, l := 0, sp := 0, pc := 0 }
  cpu :=
    { ime := false, halted := false, eiDelay := 0, haltBug := false, cpuWait := 0, instrAddr := 0, opcode := .byte 0,
      fault := none, refused := none }
  irq := { ifl := 0, ie := 0 }
  timer := { counter := 0, tima := 0, tma := 0, tac := 0, phase := .idle, signal := false }
  lcd := { lcdc := 0, statEn := 0, scy := 0, scx := 0, lyc := 0, bgp := 0, obp0 := 0, obp1 := 0, wy := 0, wx := 0 }
  ppu :=
    { on := false, line := 0, dot := 0, mode := .hblank, objs := [], bgFifo := [],
      objFifo := List.replicate 8 ObjPixel.transparent,
      fetch := { stage := 0, tileX := 0, src := .bg, tileId := 0, lo := 0, hi := 0 },
      ofetch := { active := false, stage := 0, obj := 0, tile := 0, attr := 0, lo := 0, hi := 0 },
      lx := 0, discard := 0, delay := 0, wyLatch := false, wxLatch := false, winActive := false, winLine := 0,
      statLine := false, suppress := 0 }
  dma := { reg := 0, active := false, src := 0, index := 0, count := 0 }
  bus :=
    { bootOverlay := true, ram := [], bootRom := [], cartRom := [], cartRomLen := Config.blankCartLen, cartRam := [] }
  cart := .romOnly
  env := { source := .unconstrained, draws := 0 }
  params := { accessLock := Config.accessLock, drawStartDelay := Config.drawStartDelay }
  out := { trace := [], image := [] }
  ticks := 0

end Sys2Proof.Machine
end

