-- ==== Sys2Proof/Machine/Memory.lean ====
section
/-! DEFINITION. The byte stores: reading and writing one byte in the one canonical form of `Memory`. `d` is what an unlisted key
reads as, `Config.unlisted` of the buffer. -/

namespace Sys2Proof.Machine

/-- The byte at a key; an unlisted key reads as `d`. -/
def Memory.read (d : Byte) : Memory → Nat → Byte
  | [], _ => d
  | (k, v) :: m, a => if a = k then v else if a < k then d else Memory.read d m a

/-- Write one byte and keep the canonical form: writing `d` removes the entry. -/
def Memory.write (d : Byte) : Memory → Nat → Byte → Memory
  | [], a, v => if v = d then [] else [(a, v)]
  | (k, w) :: m, a, v =>
    if a < k then (if v = d then (k, w) :: m else (a, v) :: (k, w) :: m)
    else if a = k then (if v = d then m else (a, v) :: m)
    else (k, w) :: Memory.write d m a v

/-- The canonical form above a bound: every key at least `lo`, keys strictly rising, no entry equal to `d`. -/
def Memory.wfFrom (d : Byte) : Nat → Memory → Bool
  | _, [] => true
  | lo, (k, v) :: m => decide (lo ≤ k) && decide (v ≠ d) && Memory.wfFrom d (k + 1) m

/-- The canonical form. -/
def Memory.wf (d : Byte) (m : Memory) : Bool := Memory.wfFrom d 0 m

/-- The image of a list of bytes, the first at the given offset. -/
def Memory.ofBytes (d : Byte) (at_ : Nat) : List Byte → Memory
  | [] => []
  | v :: vs => Memory.write d (Memory.ofBytes d (at_ + 1) vs) at_ v

/-- The byte at `o` of the block's own RAM, `o` a main-bus address (20_memory.md R49). -/
def State.ramByte (s : State) (o : Nat) : Byte := Memory.read (Config.unlisted .ram) s.bus.ram o

/-- Write one byte of the block's own RAM. -/
def State.setRamByte (s : State) (o : Nat) (v : Byte) : State :=
  { s with bus.ram := Memory.write (Config.unlisted .ram) s.bus.ram o v }

end Sys2Proof.Machine
end

