-- ==== Sys2Proof/Machine/Timer.lean ====
section
/-! DEFINITION. The falling-edge timer (60_exceptions.md part 4, R214 to R217; 10_state.md R28 to R31). -/

namespace Sys2Proof.Machine

/-- The counter bit that the select field picks: 0 → 9, 1 → 3, 2 → 5, 3 → 7 (10_state.md R31, R214). -/
def Timer.selBit (t : Timer) : Nat :=
  match (t.tac.extractLsb' 0 2).toNat with
  | 0 => 9
  | 1 => 3
  | 2 => 5
  | _ => 7

/-- `timSignalNow()`: the enable bit AND the selected counter bit (R214). -/
def Timer.signalNow (t : Timer) : Bool := t.tac.getLsbD 2 && t.counter.getLsbD t.selBit

/-- `incTIMA()`: TIMA is held in phases A and B; past 255 it becomes 0 and phase A begins (R214). -/
def Timer.incTima (t : Timer) : Timer :=
  match t.phase with
  | .idle => if t.tima = 0xFF then { t with tima := 0, phase := .a 4 } else { t with tima := t.tima + 1 }
  | _ => t

/-- `edgeCheck()`: a fall of the multiplexer output increments TIMA; the new output is remembered (R214). -/
def Timer.edgeCheck (t : Timer) : Timer :=
  let u := if t.signal && !t.signalNow then t.incTima else t
  { u with signal := t.signalNow }

/-- A store to DIV resets the whole counter, then checks for an edge (10_state.md R28, R214). -/
def Timer.writeDiv (t : Timer) : Timer := Timer.edgeCheck { t with counter := 0 }

/-- A store to TAC writes bits 2:0, then checks for an edge (R31, R214). -/
def Timer.writeTac (t : Timer) (v : Byte) : Timer := Timer.edgeCheck { t with tac := v.setWidth 3 }

/-- A store to TIMA: in phase A it cancels the reload and the request, in phase B it is ignored (R216). -/
def Timer.writeTima (t : Timer) (v : Byte) : Timer :=
  match t.phase with
  | .idle => { t with tima := v }
  | .a _ => { t with tima := v, phase := .idle }
  | .b _ => t

/-- A store to TMA; in phase B it is also copied into TIMA (R217). -/
def Timer.writeTma (t : Timer) (v : Byte) : Timer :=
  match t.phase with
  | .b _ => { t with tma := v, tima := v }
  | _ => { t with tma := v }

/-- The phase part of `timerTick()`, with whether the Timer interrupt is requested: at the end of phase A, TIMA is reloaded from
TMA (R215). -/
def Timer.advancePhase (t : Timer) : Timer × Bool :=
  match t.phase with
  | .idle => (t, false)
  | .a k => if k > 1 then ({ t with phase := .a (k - 1) }, false) else ({ t with tima := t.tma, phase := .b 4 }, true)
  | .b k => if k > 1 then ({ t with phase := .b (k - 1) }, false) else ({ t with phase := .idle }, false)

/-- The counter part of `timerTick()`: one increment, modulo 65536, then the edge check (R215). -/
def Timer.advanceCounter (t : Timer) : Timer := Timer.edgeCheck { t with counter := t.counter + 1 }

/-- The bit of IF and IE that belongs to a source (R202). -/
def irqBit : IrqSource → Nat
  | .vblank => 0
  | .stat => 1
  | .timer => 2
  | .serial => 3
  | .joypad => 4

/-- The mask of a source's bit. -/
def irqMask (k : IrqSource) : BitVec 5 := 1#5 <<< irqBit k

/-- A device requests interrupt k: IF bit k is set, on the bypass path (R203). -/
def State.requestIrq (s : State) (k : IrqSource) : State := { s with irq.ifl := s.irq.ifl ||| irqMask k }

/-- The dispatch of interrupt k clears IF bit k, on the bypass path (R206). -/
def State.clearIrq (s : State) (k : IrqSource) : State := { s with irq.ifl := s.irq.ifl &&& ~~~ irqMask k }

/-- The timer step, step 2 of every tick (R215). -/
def timerTick (s : State) : State :=
  let r := s.timer.advancePhase
  let s1 := { s with timer := r.1.advanceCounter }
  if r.2 then s1.requestIrq .timer else s1

end Sys2Proof.Machine
end

