-- ==== Sys2Proof/Machine/Lcd.lean ====
section
/-! DEFINITION. What the LCD registers report and what a store to LCDC does (60_exceptions.md R229 to R231, R233). -/

namespace Sys2Proof.Machine

/-- Line of the last processed dot (60_exceptions.md part 5, `last = (pl, pd)`). -/
def Ppu.lastLine (p : Ppu) : Nat := if p.dot > 0 then p.line else (p.line + 153) % 154

/-- Dot of the last processed dot. -/
def Ppu.lastDot (p : Ppu) : Nat := if p.dot > 0 then p.dot - 1 else 455

/-- Reported LY: 0 while off, 0 from dot 4 of line 153, else the line of the last dot (R229). -/
def Ppu.reportedLy (p : Ppu) : Byte :=
  if !p.on then 0
  else if p.lastLine = 153 ∧ p.lastDot ≥ 4 then 0
  else BitVec.ofNat 8 p.lastLine

/-- The number of a mode in STAT bits 1:0 (10_state.md R35). -/
def PpuMode.number : PpuMode → Nat
  | .hblank => 0
  | .vblank => 1
  | .oamScan => 2
  | .draw => 3

/-- Reported mode: 0 while off, 0 in dots 0..3 of line 0, else the mode of the last dot (R230). -/
def Ppu.reportedMode (p : Ppu) : Nat :=
  if !p.on then 0
  else if p.lastLine = 0 ∧ p.lastDot < 4 then 0
  else p.mode.number

/-- The LY = LYC bit, computed when it is read (R231). -/
def coincidence (p : Ppu) (r : Lcd) : Bool := p.reportedLy == r.lyc

/-- What a load of STAT returns: bit 7 one, the enables, the coincidence, the reported mode (10_state.md R35, R27). -/
def statRead (p : Ppu) (r : Lcd) : Byte :=
  0x80#8 ||| (r.statEn.setWidth 8 <<< 3) ||| (if coincidence p r then 4#8 else 0#8) ||| BitVec.ofNat 8 p.reportedMode

/-- Eight transparent slots. -/
def emptyObjFifo : List ObjPixel := List.replicate 8 ObjPixel.transparent

/-- `ppuReset()` (R233). The fields it does not name stay (log 14). -/
def Ppu.reset (p : Ppu) : Ppu :=
  { p with
    line := 0, dot := 0, mode := .hblank
    objs := [], bgFifo := [], objFifo := emptyObjFifo
    fetch := { stage := 0, tileX := 0, src := .bg, tileId := 0, lo := 0, hi := 0 }
    ofetch := { p.ofetch with active := false }
    lx := 0, discard := 0, delay := 0
    wyLatch := false, wxLatch := false, winActive := false, winLine := 0
    statLine := false }

/-- The LCD power toggle, run when a store to LCDC changes bit 7 (R233). -/
def Ppu.powerToggle (p : Ppu) (old new : Byte) : Ppu :=
  match old.getLsbD 7, new.getLsbD 7 with
  | true, false => { p.reset with on := false }
  | false, true => { p.reset with on := true, suppress := 2 }
  | _, _ => p

end Sys2Proof.Machine
end

