-- ==== Sys2Proof/Machine/Bus.lean ====
section
/-! DEFINITION. The memory bus (20_memory.md): address decode, the handler table, CPU loads and stores, the bypass path, the
DMA-restricted view and the cartridge controller's interface. -/

namespace Sys2Proof.Machine

/-! ### Address decode (R49, R50) -/

/-- The 11 regions of R49, and UNMAPPED (C3). -/
inductive Region where
  | boot
  | romA
  | romB
  | vram
  | eram
  | wram0
  | wram1
  | oam
  | unmapped
  | io
  | hram
  | ie
deriving DecidableEq, Repr

/-- `decode(addr, overlay)`: the region that answers an address, and the offset in it (R50). -/
def busDecode (addr : Word) (overlay : Bool) : Region × Nat :=
  let a := addr.toNat
  if overlay ∧ a ≤ 0x00FF then (.boot, a)
  else if a ≤ 0x3FFF then (.romA, a)
  else if a ≤ 0x7FFF then (.romB, a - 0x4000)
  else if a ≤ 0x9FFF then (.vram, a - 0x8000)
  else if a ≤ 0xBFFF then (.eram, a - 0xA000)
  else if a ≤ 0xCFFF then (.wram0, a - 0xC000)
  else if a ≤ 0xDFFF then (.wram1, a - 0xD000)
  else if a ≤ 0xEFFF then (.wram0, a - 0xE000)
  else if a ≤ 0xFDFF then (.wram1, a - 0xF000)
  else if a ≤ 0xFE9F then (.oam, a - 0xFE00)
  else if a ≤ 0xFEFF then (.unmapped, a - 0xFEA0)
  else if a ≤ 0xFF7F then (.io, a - 0xFF00)
  else if a ≤ 0xFFFE then (.hram, a - 0xFF80)
  else (.ie, 0)

/-- The key in `Bus.ram` of the RAM byte behind an address, `none` where no byte of the block's own RAM is: echo addresses
have the key of the work RAM they alias (R49). -/
def ramKey (addr : Word) : Option Nat :=
  match busDecode addr false with
  | (.vram, o) => some (0x8000 + o)
  | (.wram0, o) => some (0xC000 + o)
  | (.wram1, o) => some (0xD000 + o)
  | (.oam, o) => some (0xFE00 + o)
  | (.hram, o) => some (0xFF80 + o)
  | _ => none

/-! ### The cartridge controller (R60) -/

/-- A two-place operation of a controller expression. -/
def CartOp.apply : CartOp → Nat → Nat → Nat
  | .add, x, y => x + y
  | .sub, x, y => x - y
  | .and, x, y => x &&& y
  | .or, x, y => x ||| y
  | .shl, x, y => x <<< y
  | .shr, x, y => x >>> y

/-- The value of a controller expression: of the controller's state and of the address and the byte of the store. -/
def CartExpr.eval (state : Nat) (addr : Word) (v : Byte) : CartExpr → Nat
  | .const n => n
  | .state => state
  | .addr => addr.toNat
  | .value => v.toNat
  | .op f x y => f.apply (x.eval state addr v) (y.eval state addr v)
  | .ifLt x y lt ge => if x.eval state addr v < y.eval state addr v then lt.eval state addr v else ge.eval state addr v

/-- The value of an answer of a controller record, which no store goes with: the address and the byte read as 0 in it (log 20). -/
def CartExpr.answer (e : CartExpr) (state : Nat) : Nat := e.eval state 0 0

/-- The answers of a controller record in a state of the controller (00_scope.md R9). -/
def CartRecord.answers (r : CartRecord) (state : Nat) : CartAnswers :=
  { romBankA := r.romBankA.answer state, romBankB := r.romBankB.answer state, sramBank := r.sramBank.answer state
    ramPresent := r.ramPresent.answer state != 0, ramEnabled := r.ramEnabled.answer state != 0 }

/-- The controller's answers: ROM-only (D38), the example of 95_test_vectors.md L1-10, those of a controller record in its present state, or those of an outside controller. The spec gives neither
`sramBank()` nor `ramEnabled()` of the first two; 0 and false there are the model's choice, with no effect while no RAM is present (DESIGN CHOICE,
log 4). -/
def Controller.answers : Controller → CartAnswers
  | .romOnly => { romBankA := 0, romBankB := 1, sramBank := 0, ramPresent := false, ramEnabled := false }
  | .bank5 bank => { romBankA := 0, romBankB := bank.toNat, sramBank := 0, ramPresent := false, ramEnabled := false }
  | .given record state => record.answers state
  | .external answers => answers

/-- `CART.store(addr, v)`, for every CPU store to 0x0000..0x7FFF (R52, R60). ROM-only ignores it; the example controller
of L1-10 keeps a 5-bit bank with the 0 → 1 rule; a controller record runs its store hook (00_scope.md R9, log 20); an outside controller may answer
anything from then on (log 4). -/
def State.cartStore (s : State) (addr : Word) (v : Byte) : State :=
  match s.cart with
  | .romOnly => s
  | .bank5 _ =>
    if 0x2000 ≤ addr.toNat ∧ addr.toNat ≤ 0x3FFF then
      { s with cart := .bank5 (if v.setWidth 5 = 0 then 1 else v.setWidth 5) }
    else s
  | .given record state => { s with cart := .given record (record.store.eval state addr v) }
  | .external answers =>
    { s with cart := .external (Config.cartAnswers s.env.draws answers addr v), env.draws := s.env.draws + 1 }

/-- The byte of the cartridge image behind offset `o` of a ROM window, modulo the image's length (R53, D38). -/
def State.romByte (s : State) (bank o : Nat) : Byte :=
  Memory.read (Config.unlisted .cartRom) s.bus.cartRom ((bank * 16384 + o) % s.bus.cartRomLen)

/-- Whether the cartridge's RAM answers: present and enabled (R60). -/
def State.cartRamOn (s : State) : Bool := s.cart.answers.ramPresent && s.cart.answers.ramEnabled

/-- The offset in the cartridge RAM behind offset `o` of its window (R60). -/
def State.cartRamKey (s : State) (o : Nat) : Nat := s.cart.answers.sramBank * 8192 + o

/-- `eramRead`. -/
def State.cartRamByte (s : State) (o : Nat) : Byte :=
  Memory.read (Config.unlisted .cartRam) s.bus.cartRam (s.cartRamKey o)

/-- `eramWrite`. -/
def State.setCartRamByte (s : State) (o : Nat) (v : Byte) : State :=
  { s with bus.cartRam := Memory.write (Config.unlisted .cartRam) s.bus.cartRam (s.cartRamKey o) v }

/-! ### The registers in the I/O region (10_state.md R27) -/

/-- What answers at an address of the I/O region. `env` stands for the environment registers P1, SB, SC, audio and
wave RAM (60_exceptions.md R236), `unused` for the unused addresses (20_memory.md R57). -/
inductive IoReg where
  | env
  | div
  | tima
  | tma
  | tac
  | ifl
  | lcdc
  | stat
  | scy
  | scx
  | ly
  | lyc
  | dma
  | bgp
  | obp0
  | obp1
  | wy
  | wx
  | boot
  | unused
deriving DecidableEq, Repr

/-- The register at offset `o` of the I/O region, address 0xFF00 + o (10_state.md R27, 20_memory.md R57). -/
def ioReg (o : Nat) : IoReg :=
  match o with
  | 0x00 => .env
  | 0x01 => .env
  | 0x02 => .env
  | 0x04 => .div
  | 0x05 => .tima
  | 0x06 => .tma
  | 0x07 => .tac
  | 0x0F => .ifl
  | 0x40 => .lcdc
  | 0x41 => .stat
  | 0x42 => .scy
  | 0x43 => .scx
  | 0x44 => .ly
  | 0x45 => .lyc
  | 0x46 => .dma
  | 0x47 => .bgp
  | 0x48 => .obp0
  | 0x49 => .obp1
  | 0x4A => .wy
  | 0x4B => .wx
  | 0x50 => .boot
  | _ =>
    if (0x10 ≤ o ∧ o ≤ 0x14) ∨ (0x16 ≤ o ∧ o ≤ 0x1E) ∨ (0x20 ≤ o ∧ o ≤ 0x26) ∨ (0x30 ≤ o ∧ o ≤ 0x3F) then .env
    else .unused

/-- The environment's next byte: a free value, or 0xFF in the closed machine (60_exceptions.md R236, R237). -/
def State.envByte (s : State) : Byte :=
  match s.env.source with
  | .unconstrained => Config.envByte s.env.draws
  | .closed => 0xFF

/-- The environment has been asked for a value. -/
def State.drawn (s : State) : State := { s with env.draws := s.env.draws + 1 }

/-- The value a CPU load of a register returns: the stored bits with the read-as-one bits set (10_state.md R27). -/
def State.ioRead (s : State) : IoReg → Byte
  | .env => s.envByte
  | .div => hiByte s.timer.counter
  | .tima => s.timer.tima
  | .tma => s.timer.tma
  | .tac => 0xF8#8 ||| s.timer.tac.setWidth 8
  | .ifl => 0xE0#8 ||| s.irq.ifl.setWidth 8
  | .lcdc => s.lcd.lcdc
  | .stat => statRead s.ppu s.lcd
  | .scy => s.lcd.scy
  | .scx => s.lcd.scx
  | .ly => s.ppu.reportedLy
  | .lyc => s.lcd.lyc
  | .dma => s.dma.reg
  | .bgp => s.lcd.bgp
  | .obp0 => s.lcd.obp0
  | .obp1 => s.lcd.obp1
  | .wy => s.lcd.wy
  | .wx => s.lcd.wx
  | .boot => 0xFF
  | .unused => 0xFF

/-- A CPU store to DMA records the value and starts a transfer from index 0 (60_exceptions.md R234). -/
def Dma.start (_ : Dma) (v : Byte) : Dma :=
  { reg := v, active := true, src := joinBytes v 0, index := 0, count := 5 }

/-- What a CPU store to a register does (10_state.md R28 to R42). A store to an environment register changes no state of
the block (R236); a store to LY or to an unused address is ignored (R37, 20_memory.md R57). -/
def State.ioWrite (s : State) (v : Byte) : IoReg → State
  | .env => s
  | .div => { s with timer := s.timer.writeDiv }
  | .tima => { s with timer := s.timer.writeTima v }
  | .tma => { s with timer := s.timer.writeTma v }
  | .tac => { s with timer := s.timer.writeTac v }
  | .ifl => { s with irq.ifl := v.setWidth 5 }
  | .lcdc => { s with lcd.lcdc := v, ppu := s.ppu.powerToggle s.lcd.lcdc v }
  | .stat => { s with lcd.statEn := v.extractLsb' 3 4 }
  | .scy => { s with lcd.scy := v }
  | .scx => { s with lcd.scx := v }
  | .ly => s
  | .lyc => { s with lcd.lyc := v }
  | .dma => { s with dma := s.dma.start v }
  | .bgp => { s with lcd.bgp := v }
  | .obp0 => { s with lcd.obp0 := v }
  | .obp1 => { s with lcd.obp1 := v }
  | .wy => { s with lcd.wy := v }
  | .wx => { s with lcd.wx := v }
  | .boot => if v = 0 then s else { s with bus.bootOverlay := false }
  | .unused => s

/-! ### The access lock (R58) -/

/-- A CPU access to VRAM is locked out: the lock is on and the PPU draws. -/
def State.vramLocked (s : State) : Bool := s.params.accessLock && s.ppu.on && s.ppu.mode == .draw

/-- A CPU access to OAM is locked out: the lock is on, and the PPU scans or draws, or a DMA runs. -/
def State.oamLocked (s : State) : Bool :=
  s.params.accessLock && ((s.ppu.on && (s.ppu.mode == .oamScan || s.ppu.mode == .draw)) || s.dma.active)

/-! ### CPU loads and stores (R53, R54) -/

/-- The default read of a region at an offset, with no lock (R53); cartridge RAM keeps its enable check (R60). The I/O region has no
backing byte of its own here. -/
def State.defaultRead (s : State) : Region → Nat → Byte
  | .boot, o => Memory.read (Config.unlisted .bootRom) s.bus.bootRom o
  | .romA, o => s.romByte s.cart.answers.romBankA o
  | .romB, o => s.romByte s.cart.answers.romBankB o
  | .vram, o => s.ramByte (0x8000 + o)
  | .eram, o => if s.cartRamOn then s.cartRamByte o else 0xFF
  | .wram0, o => s.ramByte (0xC000 + o)
  | .wram1, o => s.ramByte (0xD000 + o)
  | .oam, o => s.ramByte (0xFE00 + o)
  | .unmapped, _ => 0xFF
  | .io, _ => 0xFF
  | .hram, o => s.ramByte (0xFF80 + o)
  | .ie, _ => s.irq.ie

/-- The value of `MemRead(addr, 1)` (R53, R57, R58). -/
def State.loadVal (s : State) (addr : Word) : Byte :=
  match busDecode addr s.bus.bootOverlay with
  | (.vram, o) => if s.vramLocked then 0xFF else s.defaultRead .vram o
  | (.oam, o) => if s.oamLocked then 0xFF else s.defaultRead .oam o
  | (.io, o) => s.ioRead (ioReg o)
  | (r, o) => s.defaultRead r o

/-- A load of this address is answered by the environment (60_exceptions.md R236). -/
def isEnvAddr (addr : Word) : Bool := 0xFF00 ≤ addr.toNat && addr.toNat ≤ 0xFF7F && ioReg (addr.toNat - 0xFF00) == .env

/-- The state after `MemRead(addr, 1)`: only a load that the environment answers takes a draw; no other load has a
side effect (R64). -/
def State.afterLoad (s : State) (addr : Word) : State := if isEnvAddr addr then s.drawn else s

/-- `MemWrite(addr, 1, v)` (R52, R54, R57, R58). -/
def State.store (s : State) (addr : Word) (v : Byte) : State :=
  match busDecode addr s.bus.bootOverlay with
  | (.boot, _) => s.cartStore addr v
  | (.romA, _) => s.cartStore addr v
  | (.romB, _) => s.cartStore addr v
  | (.vram, o) => if s.vramLocked then s else s.setRamByte (0x8000 + o) v
  | (.eram, o) => if s.cartRamOn then s.setCartRamByte o v else s
  | (.wram0, o) => s.setRamByte (0xC000 + o) v
  | (.wram1, o) => s.setRamByte (0xD000 + o) v
  | (.oam, o) => if s.oamLocked then s else s.setRamByte (0xFE00 + o) v
  | (.unmapped, _) => s
  | (.io, o) => s.ioWrite v (ioReg o)
  | (.hram, o) => s.setRamByte (0xFF80 + o) v
  | (.ie, _) => { s with irq.ie := v }

/-! ### The bypass path (R55, R56) -/

/-- The stored bits of a register, on the bypass path (R55); a register that stores nothing answers 0xFF (log 13). -/
def State.ioPeek (s : State) : IoReg → Byte
  | .tac => s.timer.tac.setWidth 8
  | .ifl => s.irq.ifl.setWidth 8
  | .stat => s.lcd.statEn.setWidth 8 <<< 3
  | .env => 0xFF
  | .ly => 0xFF
  | r => s.ioRead r

/-- Write the stored bits of a register with no side effect (R55); a register that stores nothing ignores it (log 13). -/
def State.ioPoke (s : State) (v : Byte) : IoReg → State
  | .env => s
  | .div => { s with timer.counter := joinBytes v (loByte s.timer.counter) }
  | .tima => { s with timer.tima := v }
  | .tma => { s with timer.tma := v }
  | .tac => { s with timer.tac := v.setWidth 3 }
  | .ifl => { s with irq.ifl := v.setWidth 5 }
  | .lcdc => { s with lcd.lcdc := v }
  | .stat => { s with lcd.statEn := v.extractLsb' 3 4 }
  | .scy => { s with lcd.scy := v }
  | .scx => { s with lcd.scx := v }
  | .ly => s
  | .lyc => { s with lcd.lyc := v }
  | .dma => { s with dma.reg := v }
  | .bgp => { s with lcd.bgp := v }
  | .obp0 => { s with lcd.obp0 := v }
  | .obp1 => { s with lcd.obp1 := v }
  | .wy => { s with lcd.wy := v }
  | .wx => { s with lcd.wx := v }
  | .boot => s
  | .unused => s

/-- `Peek(addr)`: the backing byte, with no handler and no lock (R55). -/
def State.peek (s : State) (addr : Word) : Byte :=
  match busDecode addr s.bus.bootOverlay with
  | (.io, o) => s.ioPeek (ioReg o)
  | (.eram, o) => if s.cart.answers.ramPresent then s.cartRamByte o else 0xFF
  | (r, o) => s.defaultRead r o

/-- `Poke(addr, v)`: write the backing byte, with no handler and no lock (R55). The boot image is read-only (R49); that a poke leaves the cartridge
image alone too is the model's choice, since R49 does not call it read-only (DESIGN CHOICE, log 13). -/
def State.poke (s : State) (addr : Word) (v : Byte) : State :=
  match busDecode addr s.bus.bootOverlay with
  | (.boot, _) => s
  | (.romA, _) => s
  | (.romB, _) => s
  | (.vram, o) => s.setRamByte (0x8000 + o) v
  | (.eram, o) => if s.cart.answers.ramPresent then s.setCartRamByte o v else s
  | (.wram0, o) => s.setRamByte (0xC000 + o) v
  | (.wram1, o) => s.setRamByte (0xD000 + o) v
  | (.oam, o) => s.setRamByte (0xFE00 + o) v
  | (.unmapped, _) => s
  | (.io, o) => s.ioPoke v (ioReg o)
  | (.hram, o) => s.setRamByte (0xFF80 + o) v
  | (.ie, _) => { s with irq.ie := v }

/-- `SetBit(addr, k)` (R56). -/
def State.setBit (s : State) (addr : Word) (k : Fin 8) : State := s.poke addr (s.peek addr ||| (1#8 <<< k.val))

/-- `ClearBit(addr, k)` (R56). -/
def State.clearBit (s : State) (addr : Word) (k : Fin 8) : State := s.poke addr (s.peek addr &&& ~~~ (1#8 <<< k.val))

/-- `TestBit(addr, k)` (R56). -/
def State.testBit (s : State) (addr : Word) (k : Fin 8) : Bool := (s.peek addr).getLsbD k.val

/-! ### The DMA-restricted view (R59) -/

/-- `DmaRead(addr)`: 0xE000 and above alias work RAM; the default read, with no handler and no lock. -/
def State.dmaRead (s : State) (addr : Word) : Byte :=
  let a := if addr.toNat ≥ 0xE000 then addr - 0x2000 else addr
  let ro := busDecode a s.bus.bootOverlay
  s.defaultRead ro.1 ro.2

end Sys2Proof.Machine
end

