-- ==== Sys2Proof/Machine/Ppu.lean ====
section
/-! DEFINITION. The pixel pipeline's dot (60_exceptions.md part 5, R218 to R228 and R232). `l` of the spec is `Ppu.line`, which only
`advance` changes. The fetchers are functions of the LCD registers, a bypass read `peek` and the pipeline's state. -/

namespace Sys2Proof.Machine

/-! ### Line start and OAM scan (R219, R220) -/

/-- `lineStart(l)` but for the VBlank request (R219). -/
def Ppu.lineStart (p : Ppu) (r : Lcd) : Ppu :=
  let p1 := if p.line = 0 then { p with wyLatch := false } else p
  if p.line < 144 then
    { p1 with
      wyLatch := p1.wyLatch || decide (p.line = r.wy.toNat)
      wxLatch := false, winActive := false
      objs := []
      mode := .oamScan }
  else if p.line = 144 then { p1 with mode := .vblank }
  else p1

/-- `lineStart(l)`, with the VBlank request at line 144 (R219). -/
def lineStart (s : State) : State :=
  let s1 := { s with ppu := s.ppu.lineStart s.lcd }
  if s.ppu.line = 144 then s1.requestIrq .vblank else s1

/-- The object height of LCDC bit 2 (10_state.md R34). -/
def Lcd.objHeight (r : Lcd) : Nat := if r.lcdc.getLsbD 2 then 16 else 8

/-- Insert an object after every entry with an x no greater (R220). -/
def insertObj (o : ObjEntry) : List ObjEntry → List ObjEntry
  | [] => [o]
  | e :: es => if e.x.toNat ≤ o.x.toNat then e :: insertObj o es else o :: e :: es

/-- `oamScanEntry(i)` (R220). -/
def Ppu.oamScanEntry (p : Ppu) (r : Lcd) (peek : Word → Byte) (i : Nat) : Ppu :=
  let y := peek (BitVec.ofNat 16 (0xFE00 + 4 * i))
  let x := peek (BitVec.ofNat 16 (0xFE00 + 4 * i + 1))
  if p.objs.length < 10 ∧ p.line + 16 ≥ y.toNat ∧ p.line + 16 < y.toNat + r.objHeight then
    { p with objs := insertObj { idx := i, y := y, x := x, done := false } p.objs }
  else p

/-! ### The background and window fetcher (R221, R223) -/

/-- `drawInit()` (R221). -/
def Ppu.drawInit (p : Ppu) (r : Lcd) (startDelay : Nat) : Ppu :=
  { p with
    lx := 0, discard := r.scx.toNat % 8, delay := startDelay
    bgFifo := [], objFifo := emptyObjFifo
    fetch := { p.fetch with stage := 0, tileX := 0, src := .bg }
    ofetch := { p.ofetch with active := false } }

/-- The background row `trunc8(l + SCY)` (R223). -/
def bgRow (r : Lcd) (line : Nat) : Nat := (line + r.scy.toNat) % 256

/-- `mapAddr(f)` (R223). -/
def mapAddr (r : Lcd) (p : Ppu) : Word :=
  match p.fetch.src with
  | .bg =>
    BitVec.ofNat 16 ((if r.lcdc.getLsbD 3 then 0x9C00 else 0x9800) + 32 * (bgRow r p.line / 8)
      + (r.scx.toNat / 8 + p.fetch.tileX.toNat) % 32)
  | .win =>
    BitVec.ofNat 16 ((if r.lcdc.getLsbD 6 then 0x9C00 else 0x9800) + 32 * (p.winLine.toNat / 8) + p.fetch.tileX.toNat % 32)

/-- `tileAddr(f)`: unsigned tiles from 0x8000, signed tiles around 0x9000 (R223). -/
def tileAddr (r : Lcd) (p : Ppu) : Word :=
  let row : Nat := match p.fetch.src with
    | .bg => bgRow r p.line % 8
    | .win => p.winLine.toNat % 8
  let base : Int := if r.lcdc.getLsbD 4 then 0x8000 + 16 * p.fetch.tileId.toNat else 0x9000 + 16 * p.fetch.tileId.toInt
  BitVec.ofInt 16 (base + 2 * row)

/-- The colour index of bit `b` of the two plane bytes; the low plane gives bit 0 (R223, R225). -/
def planeColour (lo hi : Byte) (b : Nat) : Colour := BitVec.ofBool (hi.getLsbD b) ++ BitVec.ofBool (lo.getLsbD b)

/-- The eight colours of a tile row, the leftmost (bit 7) first (R223). -/
def tileRow (lo hi : Byte) : List Colour := (List.range 8).map fun j => planeColour lo hi (7 - j)

/-- `bgStep()`: the six stages of the fetcher (R223). -/
def Ppu.bgStep (p : Ppu) (r : Lcd) (peek : Word → Byte) : Ppu :=
  match p.fetch.stage with
  | 0 => { p with fetch := { p.fetch with tileId := peek (mapAddr r p), stage := 1 } }
  | 1 => { p with fetch := { p.fetch with stage := 2 } }
  | 2 => { p with fetch := { p.fetch with lo := peek (tileAddr r p), stage := 3 } }
  | 3 => { p with fetch := { p.fetch with stage := 4 } }
  | 4 => { p with fetch := { p.fetch with hi := peek (tileAddr r p + 1), stage := 5 } }
  | _ =>
    if p.bgFifo = [] then
      { p with
        bgFifo := tileRow p.fetch.lo p.fetch.hi
        fetch := { p.fetch with tileX := p.fetch.tileX + 1, stage := 0 } }
    else p

/-! ### The object fetcher (R225) -/

/-- The address of the low plane byte of an object's row, with Y-flip and the 8x16 tile pair (R225). The row is an integer; only the
low 16 bits of the address reach the bus (log 18). -/
def objTileAddr (r : Lcd) (line : Nat) (o : ObjEntry) (tile attr : Byte) : Word :=
  let h : Int := r.objHeight
  let row0 : Int := line + 16 - o.y.toNat
  let row : Int := if attr.getLsbD 6 then h - 1 - row0 else row0
  let t : Nat := if r.objHeight = 16 then (tile &&& 0xFE).toNat else tile.toNat
  BitVec.ofInt 16 (0x8000 + 16 * t + 2 * row)

/-- Merge pixel j of an object into the object queue: only into a slot that is still transparent (R225). -/
def mergeObjPixel (o : ObjEntry) (attr lo hi : Byte) (lx : Nat) (q : List ObjPixel) (j : Nat) : List ObjPixel :=
  let b := if attr.getLsbD 5 then j else 7 - j
  let c := planeColour lo hi b
  let k : Int := (o.x.toNat : Int) - 8 + j - lx
  if 0 ≤ k ∧ k < 8 ∧ c ≠ 0 ∧ (q.getD k.toNat ObjPixel.transparent).c = 0 then
    q.set k.toNat { c := c, pal := attr.getLsbD 4, prio := attr.getLsbD 7 }
  else q

/-- `objStep()` (R225). An index that names no object, in a state no run reaches, only advances the stages (log 16). -/
def Ppu.objStep (p : Ppu) (r : Lcd) (peek : Word → Byte) : Ppu :=
  let g := p.ofetch
  match p.objs[g.obj]? with
  | none => if g.stage ≥ 5 then { p with ofetch := { g with active := false } } else { p with ofetch := { g with stage := g.stage + 1 } }
  | some o =>
    match g.stage with
    | 0 =>
      { p with ofetch :=
        { g with
          tile := peek (BitVec.ofNat 16 (0xFE00 + 4 * o.idx + 2))
          attr := peek (BitVec.ofNat 16 (0xFE00 + 4 * o.idx + 3))
          stage := 1 } }
    | 1 => { p with ofetch := { g with stage := 2 } }
    | 2 => { p with ofetch := { g with lo := peek (objTileAddr r p.line o g.tile g.attr), stage := 3 } }
    | 3 => { p with ofetch := { g with stage := 4 } }
    | 4 => { p with ofetch := { g with hi := peek (objTileAddr r p.line o g.tile g.attr + 1), stage := 5 } }
    | _ =>
      { p with
        objFifo := (List.range 8).foldl (mergeObjPixel o g.attr g.lo g.hi p.lx) p.objFifo
        objs := p.objs.set g.obj { o with done := true }
        ofetch := { g with active := false } }

/-! ### Mixing and output (R226, R227) -/

/-- Entry i of a palette: bits 2i+1 : 2i (10_state.md R40). -/
def paletteEntry (pal : Byte) (i : Colour) : Colour := pal.extractLsb' (2 * i.toNat) 2

/-- `mix(bc, o)` (R227). -/
def mix (r : Lcd) (bc : Colour) (o : ObjPixel) : Colour :=
  let b : Colour := if r.lcdc.getLsbD 0 then bc else 0
  if o.c ≠ 0 ∧ (o.prio = false ∨ b = 0) then paletteEntry (if o.pal then r.obp1 else r.obp0) o.c
  else if r.lcdc.getLsbD 0 then paletteEntry r.bgp bc
  else 0

/-- `popPixel()`, with the pixel it emits, if any (R226). -/
def Ppu.popPixel (p : Ppu) (r : Lcd) : Ppu × Option Pixel :=
  match p.bgFifo with
  | [] => (p, none)
  | bc :: rest =>
    if p.discard > 0 then ({ p with bgFifo := rest, discard := p.discard - 1 }, none)
    else
      let o := p.objFifo.headD ObjPixel.transparent
      let shown : Pixel := { x := p.lx, y := p.line, shade := mix r bc o }
      ({ p with
          bgFifo := rest
          objFifo := p.objFifo.tail ++ [ObjPixel.transparent]
          lx := p.lx + 1
          mode := if p.lx + 1 = 160 then .hblank else p.mode },
        if p.suppress = 0 then some shown else none)

/-! ### One DRAW dot (R222, R224) -/

/-- The X latch: "column reached window-X−7 this line" (R222, R224). -/
def Ppu.latchWx (p : Ppu) (r : Lcd) : Ppu := if p.lx + 7 ≥ r.wx.toNat then { p with wxLatch := true } else p

/-- The switch to the window: the three latched conditions hold (R222, R224). -/
def Ppu.startWindow (p : Ppu) (r : Lcd) : Ppu :=
  if !p.winActive && p.wyLatch && p.wxLatch && r.lcdc.getLsbD 5 && r.lcdc.getLsbD 0 then
    { p with
      winActive := true
      bgFifo := []
      discard := 0
      fetch := { p.fetch with stage := 0, tileX := 0, src := .win } }
  else p

/-- The object to fetch next, if one is due: the first that is not done, once its x is at most lx + 8 (R222, C6). -/
def Ppu.dueObj (p : Ppu) (r : Lcd) : Option Nat :=
  if r.lcdc.getLsbD 1 ∧ p.discard = 0 then
    match p.objs.findIdx? (fun o => !o.done) with
    | none => none
    | some i => if (p.objs.getD i { idx := 0, y := 0, x := 0, done := true }).x.toNat ≤ p.lx + 8 then some i else none
  else none

/-- `drawDot()`, with the pixel it emits, if any (R222). -/
def Ppu.drawDot (p : Ppu) (r : Lcd) (peek : Word → Byte) : Ppu × Option Pixel :=
  if p.delay > 0 then ({ p with delay := p.delay - 1 }, none)
  else if p.ofetch.active then (p.objStep r peek, none)
  else
    let p1 := (p.latchWx r).startWindow r
    match p1.dueObj r with
    | some i => (Ppu.objStep { p1 with ofetch := { p1.ofetch with active := true, stage := 0, obj := i } } r peek, none)
    | none =>
      let p2 := p1.bgStep r peek
      if p2.bgFifo = [] then (p2, none) else p2.popPixel r

/-- `consumeImage(x, y, shade)` (R238). -/
def State.consumeImage (s : State) : Option Pixel → State
  | none => s
  | some px => { s with out.image := px :: s.out.image }

/-- `drawDot()` on the whole state. -/
def drawDot (s : State) : State :=
  let r := s.ppu.drawDot s.lcd s.peek
  State.consumeImage { s with ppu := r.1 } r.2

/-! ### The end of a dot (R228, R232) -/

/-- `advance()` (R228). -/
def Ppu.advance (p : Ppu) : Ppu :=
  if p.dot + 1 = 456 then
    let p1 := { p with dot := 0, winLine := if p.line < 144 ∧ p.winActive then p.winLine + 1 else p.winLine }
    if p.line + 1 = 154 then { p1 with line := 0, winLine := 0, suppress := p.suppress - 1 }
    else { p1 with line := p.line + 1 }
  else { p with dot := p.dot + 1 }

/-- The condition of the STAT line (R232). -/
def statCondition (p : Ppu) (r : Lcd) : Bool :=
  (r.statEn.getLsbD 3 && coincidence p r)
    || (r.statEn.getLsbD 2 && (p.reportedMode == 2 || (p.lastLine == 144 && p.lastDot == 0)))
    || (r.statEn.getLsbD 1 && p.reportedMode == 1)
    || (r.statEn.getLsbD 0 && p.reportedMode == 0)

/-- `statUpdate()`: a request on a rising edge only (R232). -/
def statUpdate (s : State) : State :=
  let cond := statCondition s.ppu s.lcd
  let s1 := if cond && !s.ppu.statLine then s.requestIrq .stat else s
  { s1 with ppu.statLine := cond }

/-! ### The PPU step (R218) -/

/-- What the dot does before `advance` (R218). -/
def dotWork (s : State) : State :=
  let s1 := if s.ppu.dot = 0 then lineStart s else s
  if s.ppu.line < 144 then
    if s.ppu.dot < 80 then
      if s.ppu.dot % 2 = 0 then { s1 with ppu := s1.ppu.oamScanEntry s1.lcd s1.peek (s.ppu.dot / 2) } else s1
    else if s.ppu.dot = 80 then
      drawDot { s1 with ppu := { s1.ppu.drawInit s1.lcd s1.params.drawStartDelay.val with mode := .draw } }
    else if s1.ppu.mode = .draw then drawDot s1
    else s1
  else s1

/-- `ppuStep()`, step 3 of every tick: one dot while the LCD is on (R218). -/
def ppuStep (s : State) : State :=
  if s.ppu.on then
    let s1 := dotWork s
    statUpdate { s1 with ppu := s1.ppu.advance }
  else s

end Sys2Proof.Machine
end

