-- ==== Sys2Proof/Machine/Dma.lean ====
section
/-! DEFINITION. The OAM DMA engine's step and the environment's step (60_exceptions.md R235, R237). -/

namespace Sys2Proof.Machine

/-- `dmaTick()`, step 4 of every tick (R235). -/
def dmaTick (s : State) : State :=
  if s.dma.active then
    if s.dma.count - 1 = 0 then
      let v := s.dmaRead (s.dma.src + BitVec.ofNat 16 s.dma.index)
      let s1 := s.poke (BitVec.ofNat 16 (0xFE00 + s.dma.index)) v
      { s1 with
        dma.index := s.dma.index + 1
        dma.count := 4
        dma.active := decide (s.dma.index + 1 ≠ 160) }
    else { s with dma.count := s.dma.count - 1 }
  else s

/-- Whether the environment requests Serial at this tick (R237): a free value, or no in the closed machine. -/
def State.envSerial (s : State) : Bool :=
  match s.env.source with
  | .unconstrained => Config.envSerial s.env.draws
  | .closed => false

/-- Whether the environment requests Joypad at this tick (R237). -/
def State.envJoypad (s : State) : Bool :=
  match s.env.source with
  | .unconstrained => Config.envJoypad s.env.draws
  | .closed => false

/-- The environment step, step 5 of every tick: it may set IF bits 3 and 4 and changes nothing else of the block (R237). -/
def envStep (s : State) : State :=
  let s1 := if s.envSerial then s.requestIrq .serial else s
  let s2 := if s.envJoypad then s1.requestIrq .joypad else s1
  s2.drawn

end Sys2Proof.Machine
end

