-- ==== Sys2Proof/Machine/Ops.lean ====
section
/-! DEFINITION. The named operations over registers, the stack and the control state, shared by the meanings: registers and pairs
(10_state.md R19 to R25), `fetch8`, `push16`, `pop16` and `cost` (00_scope.md R15), taking an interrupt (60_exceptions.md R205) and
the return from one (44_control.md R190). -/

namespace Sys2Proof.Machine

/-! ### Registers (R19 to R24) -/

/-- `x[r]` of an 8-bit register. -/
def State.reg8 (s : State) : Reg8 → Byte
  | .b => s.regs.b
  | .c => s.regs.c
  | .d => s.regs.d
  | .e => s.regs.e
  | .h => s.regs.h
  | .l => s.regs.l
  | .a => s.regs.a

/-- `x[r] <- v`. -/
def State.setReg8 (s : State) (r : Reg8) (v : Byte) : State :=
  match r with
  | .b => { s with regs.b := v }
  | .c => { s with regs.c := v }
  | .d => { s with regs.d := v }
  | .e => { s with regs.e := v }
  | .h => { s with regs.h := v }
  | .l => { s with regs.l := v }
  | .a => { s with regs.a := v }

/-- `x[HL]`: the pair is its two halves, the first named the high byte (R19, R20). -/
def State.hl (s : State) : Word := joinBytes s.regs.h s.regs.l

/-- `x[BC]`. -/
def State.bc (s : State) : Word := joinBytes s.regs.b s.regs.c

/-- `x[DE]`. -/
def State.de (s : State) : Word := joinBytes s.regs.d s.regs.e

/-- `x[HL] <- v`. -/
def State.setHl (s : State) (v : Word) : State := { s with regs.h := hiByte v, regs.l := loByte v }

/-- `x[rr]` of table `rp`. -/
def State.pair (s : State) : Pair → Word
  | .bc => s.bc
  | .de => s.de
  | .hl => s.hl
  | .sp => s.regs.sp

/-- `x[rr] <- v` of table `rp`. -/
def State.setPair (s : State) (p : Pair) (v : Word) : State :=
  match p with
  | .bc => { s with regs.b := hiByte v, regs.c := loByte v }
  | .de => { s with regs.d := hiByte v, regs.e := loByte v }
  | .hl => s.setHl v
  | .sp => { s with regs.sp := v }

/-- A write to F stores `v AND 0xF0` (R22). -/
def State.setF (s : State) (v : Byte) : State := { s with regs.f := v &&& 0xF0 }

/-- `x[rr]` of table `rp2`. -/
def State.stackPair (s : State) : StackPair → Word
  | .bc => s.bc
  | .de => s.de
  | .hl => s.hl
  | .af => joinBytes s.regs.a s.regs.f

/-- `x[rr] <- v` of table `rp2`; the low byte of AF goes through R22. -/
def State.setStackPair (s : State) (p : StackPair) (v : Word) : State :=
  match p with
  | .bc => s.setPair .bc v
  | .de => s.setPair .de v
  | .hl => s.setPair .hl v
  | .af => State.setF { s with regs.a := hiByte v } (loByte v)

/-- `SP <- v`. -/
def State.setSp (s : State) (v : Word) : State := { s with regs.sp := v }

/-- `PC <- v`. -/
def State.setPc (s : State) (v : Word) : State := { s with regs.pc := v }

/-! ### Flags (R25) -/

/-- The flag Z, bit 7 of F. -/
def State.flagZ (s : State) : Bool := s.regs.f.getLsbD 7

/-- The flag N, bit 6 of F. -/
def State.flagN (s : State) : Bool := s.regs.f.getLsbD 6

/-- The flag H, bit 5 of F. -/
def State.flagH (s : State) : Bool := s.regs.f.getLsbD 5

/-- The flag C, bit 4 of F. -/
def State.flagC (s : State) : Bool := s.regs.f.getLsbD 4

/-- F with the four flags in bits 7..4 and zeros below (R22, R25). -/
def packFlags (z n h c : Bool) : Byte :=
  BitVec.ofBool z ++ BitVec.ofBool n ++ BitVec.ofBool h ++ BitVec.ofBool c ++ 0#4

/-- Write the four flags. -/
def State.setFlags (s : State) (z n h c : Bool) : State := { s with regs.f := packFlags z n h c }

/-! ### Cost and control state (R15, R26, R241) -/

/-- `cost(m)`: the next cycle starts 4m ticks after this one (R71, R241). -/
def State.cost (s : State) (m : Nat) : State := { s with cpu.cpuWait := 4 * m - 1 }

/-- `IE AND IF AND 0x1F` (R71, R203). -/
def State.pending (s : State) : BitVec 5 := s.irq.ie.setWidth 5 &&& s.irq.ifl

/-- The serviced source: the lowest set bit, by priority VBlank, STAT, Timer, Serial, Joypad (R204). -/
def lowestIrq (p : BitVec 5) : Option IrqSource :=
  if p.getLsbD 0 then some .vblank
  else if p.getLsbD 1 then some .stat
  else if p.getLsbD 2 then some .timer
  else if p.getLsbD 3 then some .serial
  else if p.getLsbD 4 then some .joypad
  else none

/-- The vector `0x40 + 8k` (R202). -/
def irqVector (k : IrqSource) : Word := BitVec.ofNat 16 (0x40 + 8 * irqBit k)

/-- `resolveEI()`, step 1 of every cycle (45_system.md R194). -/
def resolveEi (s : State) : State :=
  if s.cpu.eiDelay > 0 then
    { s with cpu.eiDelay := s.cpu.eiDelay - 1, cpu.ime := s.cpu.ime || decide (s.cpu.eiDelay - 1 = 0) }
  else s

/-! ### Fetch and stack (R15) -/

/-- The byte `fetch8()` returns. -/
def State.fetchVal (s : State) : Byte := s.loadVal s.regs.pc

/-- The state after `fetch8()`: PC past the byte, modulo 65536 (R24). -/
def State.afterFetch (s : State) : State := (s.afterLoad s.regs.pc).setPc (s.regs.pc + 1)

/-- `push16(v)`: the high byte first, each byte below the last (R15, 20_memory.md R61, R62). -/
def State.push16 (s : State) (v : Word) : State :=
  let s1 := (s.setSp (s.regs.sp - 1)).store (s.regs.sp - 1) (hiByte v)
  (s1.setSp (s.regs.sp - 2)).store (s.regs.sp - 2) (loByte v)

/-- The word `pop16()` returns: the low byte at SP, then the high byte at SP + 1 (R15). -/
def State.popVal (s : State) : Word :=
  joinBytes ((s.afterLoad s.regs.sp).loadVal (s.regs.sp + 1)) (s.loadVal s.regs.sp)

/-- The state after `pop16()`: SP two higher. -/
def State.afterPop (s : State) : State :=
  ((s.afterLoad s.regs.sp).afterLoad (s.regs.sp + 1)).setSp (s.regs.sp + 2)

/-! ### Taking an interrupt and returning from it -/

/-- The state in which the entry stores its two bytes: `haltBug`, `halted`, IME and `eiDelay` cleared (R205). -/
def State.entryCleared (s : State) : State :=
  { s with cpu.haltBug := false, cpu.halted := false, cpu.ime := false, cpu.eiDelay := 0 }

/-- The return address of an entry: PC, or PC − 1 after a halt bug (R198, R205). -/
def State.entryReturn (s : State) : Word := if s.cpu.haltBug then s.regs.pc - 1 else s.regs.pc

/-- The entry after the store of the high byte, before the re-evaluation (R205). -/
def State.entryHigh (s : State) : State :=
  (s.entryCleared.setSp (s.regs.sp - 1)).store (s.regs.sp - 1) (hiByte s.entryReturn)

/-- `interruptEntry()`: push the return address as two byte stores, the high byte first, and re-evaluate which source still
applies after the high byte (R205). -/
def interruptEntry (s : State) : OpcodeId × State :=
  let s1 := s.entryHigh
  let s2 := (s1.setSp (s.regs.sp - 2)).store (s.regs.sp - 2) (loByte s.entryReturn)
  match lowestIrq s1.pending with
  | none => (.intCancelled, s2)
  | some k => (.interrupt k, s2)

/-- The service of source k after the entry: its IF bit is cleared and PC is its vector (R206). -/
def serviceInterrupt (k : IrqSource) (s : State) : State := (s.clearIrq k).setPc (irqVector k)

/-- The return from an interrupt handler: pop PC and set IME at once, `eiDelay` unchanged (44_control.md R190). -/
def interruptReturn (s : State) : State :=
  let s1 := s.afterPop.setPc s.popVal
  { s1 with cpu.ime := true }

end Sys2Proof.Machine
end

