-- ==== Sys2Proof/Machine/Flags.lean ====
section
/-! DEFINITION. Every flag computation: the eight ALU operations (41_alu8.md R112), increment and decrement (R138, R140), DAA (R142),
the 16-bit sums (42_alu16.md R148, R149) and the shifts and rotates (43_bitops.md R156). Operands are converted to integers, the
result is exact, and it is narrowed at the end (00_scope.md R11). -/

namespace Sys2Proof.Machine

/-- An 8-bit result with the four flags it writes. -/
structure AluResult where
  val : Byte
  z : Bool
  n : Bool
  h : Bool
  c : Bool
deriving DecidableEq, Repr

/-- The result of an exact integer `r` narrowed to 8 bits, Z from the narrowed value. -/
def aluResult (r : Int) (n h c : Bool) : AluResult :=
  { val := BitVec.ofInt 8 r, z := decide (BitVec.ofInt 8 r = 0), n := n, h := h, c := c }

/-- The table of R112: `a` is the accumulator, `b` the operand, `cin` the carry before. -/
def alu (op : AluOp) (a b : Byte) (cin : Bool) : AluResult :=
  let x := a.toNat
  let y := b.toNat
  let c := cin.toNat
  match op with
  | .add => aluResult (x + y) false (decide (x % 16 + y % 16 > 0xF)) (decide (x + y > 0xFF))
  | .adc => aluResult (x + y + c) false (decide (x % 16 + y % 16 + c > 0xF)) (decide (x + y + c > 0xFF))
  | .sub => aluResult ((x : Int) - y) true (decide (x % 16 < y % 16)) (decide (x < y))
  | .sbc => aluResult ((x : Int) - y - c) true (decide (x % 16 < y % 16 + c)) (decide (x < y + c))
  | .and => aluResult (a &&& b).toNat false true false
  | .xor => aluResult (a ^^^ b).toNat false false false
  | .or => aluResult (a ||| b).toNat false false false
  | .cp => aluResult ((x : Int) - y) true (decide (x % 16 < y % 16)) (decide (x < y))

/-- `alu8(op, b)`: A is written unless the operation is CP; all four flags are written (R112). -/
def State.alu8 (s : State) (op : AluOp) (b : Byte) : State :=
  let r := alu op s.regs.a b s.flagC
  let s1 := if op = .cp then s else s.setReg8 .a r.val
  s1.setFlags r.z r.n r.h r.c

/-- The flags of an increment of `v`: Z, N = 0, H, C unchanged (R138). -/
def State.incFlags (s : State) (v : Byte) : State :=
  s.setFlags (decide (v + 1 = 0)) false (decide (v.toNat % 16 = 0xF)) s.flagC

/-- The flags of a decrement of `v`: Z, N = 1, H, C unchanged (R140). -/
def State.decFlags (s : State) (v : Byte) : State :=
  s.setFlags (decide (v - 1 = 0)) true (decide (v.toNat % 16 = 0)) s.flagC

/-- DAA on A with the flags N, H, C: the corrected A and the new C (R142). -/
def daaAdjust (a : Byte) (n h c : Bool) : Byte × Bool :=
  if n then
    let adj : Byte := (if h then 0x06 else 0) ||| (if c then 0x60 else 0)
    (a - adj, c)
  else
    let low := h || decide (a.toNat % 16 > 9)
    let high := c || decide (a.toNat > 0x99)
    let adj : Byte := (if low then 0x06 else 0) ||| (if high then 0x60 else 0)
    (a + adj, high)

/-- The carry out of bit 11 of a 16-bit sum (R148). -/
def addHalfCarry16 (x y : Word) : Bool := decide (x.toNat % 4096 + y.toNat % 4096 > 0xFFF)

/-- The carry out of bit 15 of a 16-bit sum (R148). -/
def addCarry16 (x y : Word) : Bool := decide (x.toNat + y.toNat > 0xFFFF)

/-- A signed displacement as a 16-bit value: `sext_8` (R11, R81). -/
def sext8 (e : Byte) : Word := e.signExtend 16

/-- The result of the signed-offset sum (R149). -/
def spPlus (sp : Word) (e : Byte) : Word := sp + sext8 e

/-- The flags of the signed-offset sum: Z and N cleared, H and C from the unsigned low-byte addition (R149). -/
def State.spPlusFlags (s : State) (sp : Word) (e : Byte) : State :=
  s.setFlags false false (decide (sp.toNat % 16 + e.toNat % 16 > 0xF)) (decide (sp.toNat % 256 + e.toNat > 0xFF))

/-- The table of R156: the result and the new carry of a rotate or shift of `v` with the carry `c` before. -/
def shiftResult (op : ShiftOp) (v : Byte) (c : Bool) : Byte × Bool :=
  let x := v.toNat
  let b7 := v.getLsbD 7
  let b0 := v.getLsbD 0
  match op with
  | .rlc => (BitVec.ofNat 8 (x * 2 + b7.toNat), b7)
  | .rrc => (BitVec.ofNat 8 (x / 2 + 128 * b0.toNat), b0)
  | .rl => (BitVec.ofNat 8 (x * 2 + c.toNat), b7)
  | .rr => (BitVec.ofNat 8 (x / 2 + 128 * c.toNat), b0)
  | .sla => (BitVec.ofNat 8 (x * 2), b7)
  | .sra => (BitVec.ofNat 8 (x / 2 + 128 * b7.toNat), b0)
  | .swap => (BitVec.ofNat 8 (16 * (x % 16) + x / 16), false)
  | .srl => (BitVec.ofNat 8 (x / 2), b0)

/-- The flags of a prefixed rotate or shift: Z, N = H = 0, the new C (R156). -/
def State.shiftFlags (s : State) (r : Byte × Bool) : State := s.setFlags (decide (r.1 = 0)) false false r.2

/-- The flags of an accumulator rotate: Z, N, H = 0, the new C (R152 to R155). -/
def State.rotAFlags (s : State) (c : Bool) : State := s.setFlags false false false c

/-- The flags of BIT on a value: Z from the bit, N = 0, H = 1, C unchanged (R173). -/
def State.bitFlags (s : State) (v : Byte) (b : Fin 8) : State := s.setFlags (!v.getLsbD b.val) false true s.flagC

/-- `cond(cc)` (44_control.md R179). -/
def State.cond (s : State) : Cond → Bool
  | .nz => !s.flagZ
  | .z => s.flagZ
  | .nc => !s.flagC
  | .c => s.flagC

end Sys2Proof.Machine
end

