-- ==== Sys2Proof/Machine/Operands.lean ====
section
/-! DEFINITION. The operand forms, each once: a register, the byte at HL, an immediate byte, a byte at another address, a pair, the
load-operate-store form of the memory operand (30_encoding.md R77, R81; 00_scope.md R15). A meaning is one line over these. -/

namespace Sys2Proof.Machine

/-! ### Loads and stores (40_loads.md) -/

/-- `x[dst] <- x[src]` (R87). -/
def ldRegFromReg (dst src : Reg8) (s : State) : Out := .next ((s.setReg8 dst (s.reg8 src)).cost 1)

/-- `x[r] <- n` (R88). -/
def ldRegFromImm (r : Reg8) (n : Byte) (s : State) : Out := .next ((s.setReg8 r n).cost 2)

/-- `x[r] <- MemRead(a, 1)` in m M-cycles (R89, R92, R93, R100, R102, R104). -/
def ldRegFromMem (r : Reg8) (a : Word) (m : Nat) (s : State) : Out :=
  .next (((s.afterLoad a).setReg8 r (s.loadVal a)).cost m)

/-- `MemWrite(a, 1, v)` in m M-cycles (R90, R91, R94, R95, R101, R103, R105). -/
def stMem (a : Word) (v : Byte) (m : Nat) (s : State) : Out := .next ((s.store a v).cost m)

/-- `MemWrite(HL, 1, A)`, then HL moves by `step` (R96, R98). -/
def stAtHlMove (step : Word) (s : State) : Out := .next (((s.store s.hl s.regs.a).setHl (s.hl + step)).cost 2)

/-- `A <- MemRead(HL, 1)`, then HL moves by `step` (R97, R99). -/
def ldAtHlMove (step : Word) (s : State) : Out :=
  .next ((((s.afterLoad s.hl).setReg8 .a (s.loadVal s.hl)).setHl (s.hl + step)).cost 2)

/-- The high page address `0xFF00 + o` (R81). -/
def highPage (o : Byte) : Word := 0xFF00#16 + o.setWidth 16

/-- `x[rr] <- w` (R106). -/
def ldPairFromImm (p : Pair) (w : Word) (s : State) : Out := .next ((s.setPair p w).cost 3)

/-- `PUSH rr` (R109). -/
def pushPair (p : StackPair) (s : State) : Out := .next ((s.push16 (s.stackPair p)).cost 4)

/-- `POP rr` (R110, R111). -/
def popPair (p : StackPair) (s : State) : Out := .next ((s.afterPop.setStackPair p s.popVal).cost 3)

/-! ### 8-bit arithmetic and logic (41_alu8.md) -/

/-- An ALU operation on a register (R113). -/
def aluReg (op : AluOp) (r : Reg8) (s : State) : Out := .next ((s.alu8 op (s.reg8 r)).cost 1)

/-- An ALU operation on the byte at HL: one read, no write (R113). -/
def aluAtHl (op : AluOp) (s : State) : Out := .next (((s.afterLoad s.hl).alu8 op (s.loadVal s.hl)).cost 2)

/-- An ALU operation on an immediate byte (R113). -/
def aluImm (op : AluOp) (n : Byte) (s : State) : Out := .next ((s.alu8 op n).cost 2)

/-- `INC r` (R138). -/
def incReg8 (r : Reg8) (s : State) : Out := .next (((s.setReg8 r (s.reg8 r + 1)).incFlags (s.reg8 r)).cost 1)

/-- `DEC r` (R140). -/
def decReg8 (r : Reg8) (s : State) : Out := .next (((s.setReg8 r (s.reg8 r - 1)).decFlags (s.reg8 r)).cost 1)

/-! ### 16-bit arithmetic (42_alu16.md) -/

/-- `INC rr` (R146). -/
def incPair16 (p : Pair) (s : State) : Out := .next ((s.setPair p (s.pair p + 1)).cost 2)

/-- `DEC rr` (R147). -/
def decPair16 (p : Pair) (s : State) : Out := .next ((s.setPair p (s.pair p - 1)).cost 2)

/-- `ADD HL,rr` (R148). -/
def addHl16 (p : Pair) (s : State) : Out :=
  .next (((s.setHl (s.hl + s.pair p)).setFlags s.flagZ false (addHalfCarry16 s.hl (s.pair p))
    (addCarry16 s.hl (s.pair p))).cost 2)

/-! ### Rotates, shifts and bits (43_bitops.md) -/

/-- An accumulator rotate by the table of R156, Z cleared (R152 to R155). -/
def rotA (op : ShiftOp) (s : State) : Out :=
  let r := shiftResult op s.regs.a s.flagC
  .next (((s.setReg8 .a r.1).rotAFlags r.2).cost 1)

/-- A prefixed rotate or shift of a register (R156). -/
def shiftReg8 (op : ShiftOp) (r : Reg8) (s : State) : Out :=
  let v := shiftResult op (s.reg8 r) s.flagC
  .next (((s.setReg8 r v.1).shiftFlags v).cost 2)

/-- A prefixed rotate or shift of the byte at HL: one load, then one store (R156). -/
def shiftMem (op : ShiftOp) (s : State) : Out :=
  let v := shiftResult op (s.loadVal s.hl) s.flagC
  .next ((((s.afterLoad s.hl).store s.hl v.1).shiftFlags v).cost 4)

/-- The byte with only bit b set. -/
def bitMask (b : Fin 8) : Byte := BitVec.ofNat 8 (2 ^ b.val)

/-! ### Control transfer (44_control.md) -/

/-- `PC <- t` in m M-cycles. -/
def jumpTo (t : Word) (m : Nat) (s : State) : Out := .next ((s.setPc t).cost m)

/-- `push16(PC); PC <- t` in m M-cycles (R185, R187). -/
def callTo (t : Word) (m : Nat) (s : State) : Out := .next (((s.push16 s.regs.pc).setPc t).cost m)

/-- `PC <- pop16()` in m M-cycles (R188). -/
def returnFrom (m : Nat) (s : State) : Out := .next ((s.afterPop.setPc s.popVal).cost m)

/-- The target of a relative jump: PC, the address after the instruction, plus the displacement (R183). -/
def relTarget (e : Byte) (s : State) : Word := s.regs.pc + sext8 e

/-- A conditional jump: `m` M-cycles when taken, `n` when not (R181, R184). -/
def jumpIf (cc : Cond) (t : Word) (m n : Nat) (s : State) : Out := if s.cond cc then jumpTo t m s else .next (s.cost n)

/-- A conditional call (R186). -/
def callIf (cc : Cond) (t : Word) (s : State) : Out := if s.cond cc then callTo t 6 s else .next (s.cost 3)

/-- A conditional return (R189). -/
def returnIf (cc : Cond) (s : State) : Out := if s.cond cc then returnFrom 5 s else .next (s.cost 2)

/-! ### Stops (45_system.md) -/

/-- An illegal opcode stops the machine: the reason, the address of the byte, the opcode, and PC after its fetch (R200). -/
def illegalOpcode (opcode : Byte) (s : State) : Out := .fault (.unknownOpcode s.cpu.instrAddr opcode s.regs.pc)

end Sys2Proof.Machine
end

