-- ==== Sys2Proof/Machine/Alu16.lean ====
section
/-! DEFINITION. The meanings of the 16-bit arithmetic instructions (42_alu16.md). Each is one line over the shared operations; PC is
already past the bytes of the instruction (Machine/Cycle.lean). -/

namespace Sys2Proof.Machine

/-- `INC BC` (R146). -/
def execIncBc (s : State) : Out := incPair16 .bc s

/-- `INC DE` (R146). -/
def execIncDe (s : State) : Out := incPair16 .de s

/-- `INC HL` (R146). -/
def execIncHl (s : State) : Out := incPair16 .hl s

/-- `INC SP` (R146). -/
def execIncSp (s : State) : Out := incPair16 .sp s

/-- `DEC BC` (R147). -/
def execDecBc (s : State) : Out := decPair16 .bc s

/-- `DEC DE` (R147). -/
def execDecDe (s : State) : Out := decPair16 .de s

/-- `DEC HL` (R147). -/
def execDecHl (s : State) : Out := decPair16 .hl s

/-- `DEC SP` (R147). -/
def execDecSp (s : State) : Out := decPair16 .sp s

/-- `ADD HL,BC` (R148). -/
def execAddHlBc (s : State) : Out := addHl16 .bc s

/-- `ADD HL,DE` (R148). -/
def execAddHlDe (s : State) : Out := addHl16 .de s

/-- `ADD HL,HL` (R148). -/
def execAddHlHl (s : State) : Out := addHl16 .hl s

/-- `ADD HL,SP` (R148). -/
def execAddHlSp (s : State) : Out := addHl16 .sp s

/-- `ADD SP,e8` (R150). -/
def execAddSpE8 (e : Byte) (s : State) : Out := .next (((s.setSp (spPlus s.regs.sp e)).spPlusFlags s.regs.sp e).cost 4)

/-- `LD HL,SP+e8` (R151). -/
def execLdHlSpE8 (e : Byte) (s : State) : Out := .next (((s.setHl (spPlus s.regs.sp e)).spPlusFlags s.regs.sp e).cost 3)

end Sys2Proof.Machine
end

