-- ==== Sys2Proof/Machine/Alu8.lean ====
section
/-! DEFINITION. The meanings of the 8-bit arithmetic and logic instructions (41_alu8.md). Each is one line over the shared operations; PC is
already past the bytes of the instruction (Machine/Cycle.lean). -/

namespace Sys2Proof.Machine

/-- `ADD A,B` (R114). -/
def execAddAB (s : State) : Out := aluReg .add .b s

/-- `ADD A,C` (R114). -/
def execAddAC (s : State) : Out := aluReg .add .c s

/-- `ADD A,D` (R114). -/
def execAddAD (s : State) : Out := aluReg .add .d s

/-- `ADD A,E` (R114). -/
def execAddAE (s : State) : Out := aluReg .add .e s

/-- `ADD A,H` (R114). -/
def execAddAH (s : State) : Out := aluReg .add .h s

/-- `ADD A,L` (R114). -/
def execAddAL (s : State) : Out := aluReg .add .l s

/-- `ADD A,A` (R114). -/
def execAddAA (s : State) : Out := aluReg .add .a s

/-- `ADD A,(HL)` (R115). -/
def execAddAAtHl (s : State) : Out := aluAtHl .add s

/-- `ADD A,n8` (R116). -/
def execAddAN8 (n : Byte) (s : State) : Out := aluImm .add n s

/-- `ADC A,B` (R117). -/
def execAdcAB (s : State) : Out := aluReg .adc .b s

/-- `ADC A,C` (R117). -/
def execAdcAC (s : State) : Out := aluReg .adc .c s

/-- `ADC A,D` (R117). -/
def execAdcAD (s : State) : Out := aluReg .adc .d s

/-- `ADC A,E` (R117). -/
def execAdcAE (s : State) : Out := aluReg .adc .e s

/-- `ADC A,H` (R117). -/
def execAdcAH (s : State) : Out := aluReg .adc .h s

/-- `ADC A,L` (R117). -/
def execAdcAL (s : State) : Out := aluReg .adc .l s

/-- `ADC A,A` (R117). -/
def execAdcAA (s : State) : Out := aluReg .adc .a s

/-- `ADC A,(HL)` (R118). -/
def execAdcAAtHl (s : State) : Out := aluAtHl .adc s

/-- `ADC A,n8` (R119). -/
def execAdcAN8 (n : Byte) (s : State) : Out := aluImm .adc n s

/-- `SUB A,B` (R120). -/
def execSubAB (s : State) : Out := aluReg .sub .b s

/-- `SUB A,C` (R120). -/
def execSubAC (s : State) : Out := aluReg .sub .c s

/-- `SUB A,D` (R120). -/
def execSubAD (s : State) : Out := aluReg .sub .d s

/-- `SUB A,E` (R120). -/
def execSubAE (s : State) : Out := aluReg .sub .e s

/-- `SUB A,H` (R120). -/
def execSubAH (s : State) : Out := aluReg .sub .h s

/-- `SUB A,L` (R120). -/
def execSubAL (s : State) : Out := aluReg .sub .l s

/-- `SUB A,A` (R120). -/
def execSubAA (s : State) : Out := aluReg .sub .a s

/-- `SUB A,(HL)` (R121). -/
def execSubAAtHl (s : State) : Out := aluAtHl .sub s

/-- `SUB A,n8` (R122). -/
def execSubAN8 (n : Byte) (s : State) : Out := aluImm .sub n s

/-- `SBC A,B` (R123). -/
def execSbcAB (s : State) : Out := aluReg .sbc .b s

/-- `SBC A,C` (R123). -/
def execSbcAC (s : State) : Out := aluReg .sbc .c s

/-- `SBC A,D` (R123). -/
def execSbcAD (s : State) : Out := aluReg .sbc .d s

/-- `SBC A,E` (R123). -/
def execSbcAE (s : State) : Out := aluReg .sbc .e s

/-- `SBC A,H` (R123). -/
def execSbcAH (s : State) : Out := aluReg .sbc .h s

/-- `SBC A,L` (R123). -/
def execSbcAL (s : State) : Out := aluReg .sbc .l s

/-- `SBC A,A` (R123). -/
def execSbcAA (s : State) : Out := aluReg .sbc .a s

/-- `SBC A,(HL)` (R124). -/
def execSbcAAtHl (s : State) : Out := aluAtHl .sbc s

/-- `SBC A,n8` (R125). -/
def execSbcAN8 (n : Byte) (s : State) : Out := aluImm .sbc n s

/-- `AND A,B` (R129). -/
def execAndAB (s : State) : Out := aluReg .and .b s

/-- `AND A,C` (R129). -/
def execAndAC (s : State) : Out := aluReg .and .c s

/-- `AND A,D` (R129). -/
def execAndAD (s : State) : Out := aluReg .and .d s

/-- `AND A,E` (R129). -/
def execAndAE (s : State) : Out := aluReg .and .e s

/-- `AND A,H` (R129). -/
def execAndAH (s : State) : Out := aluReg .and .h s

/-- `AND A,L` (R129). -/
def execAndAL (s : State) : Out := aluReg .and .l s

/-- `AND A,A` (R129). -/
def execAndAA (s : State) : Out := aluReg .and .a s

/-- `AND A,(HL)` (R130). -/
def execAndAAtHl (s : State) : Out := aluAtHl .and s

/-- `AND A,n8` (R131). -/
def execAndAN8 (n : Byte) (s : State) : Out := aluImm .and n s

/-- `XOR A,B` (R132). -/
def execXorAB (s : State) : Out := aluReg .xor .b s

/-- `XOR A,C` (R132). -/
def execXorAC (s : State) : Out := aluReg .xor .c s

/-- `XOR A,D` (R132). -/
def execXorAD (s : State) : Out := aluReg .xor .d s

/-- `XOR A,E` (R132). -/
def execXorAE (s : State) : Out := aluReg .xor .e s

/-- `XOR A,H` (R132). -/
def execXorAH (s : State) : Out := aluReg .xor .h s

/-- `XOR A,L` (R132). -/
def execXorAL (s : State) : Out := aluReg .xor .l s

/-- `XOR A,A` (R132). -/
def execXorAA (s : State) : Out := aluReg .xor .a s

/-- `XOR A,(HL)` (R133). -/
def execXorAAtHl (s : State) : Out := aluAtHl .xor s

/-- `XOR A,n8` (R134). -/
def execXorAN8 (n : Byte) (s : State) : Out := aluImm .xor n s

/-- `OR A,B` (R135). -/
def execOrAB (s : State) : Out := aluReg .or .b s

/-- `OR A,C` (R135). -/
def execOrAC (s : State) : Out := aluReg .or .c s

/-- `OR A,D` (R135). -/
def execOrAD (s : State) : Out := aluReg .or .d s

/-- `OR A,E` (R135). -/
def execOrAE (s : State) : Out := aluReg .or .e s

/-- `OR A,H` (R135). -/
def execOrAH (s : State) : Out := aluReg .or .h s

/-- `OR A,L` (R135). -/
def execOrAL (s : State) : Out := aluReg .or .l s

/-- `OR A,A` (R135). -/
def execOrAA (s : State) : Out := aluReg .or .a s

/-- `OR A,(HL)` (R136). -/
def execOrAAtHl (s : State) : Out := aluAtHl .or s

/-- `OR A,n8` (R137). -/
def execOrAN8 (n : Byte) (s : State) : Out := aluImm .or n s

/-- `CP A,B` (R126). -/
def execCpAB (s : State) : Out := aluReg .cp .b s

/-- `CP A,C` (R126). -/
def execCpAC (s : State) : Out := aluReg .cp .c s

/-- `CP A,D` (R126). -/
def execCpAD (s : State) : Out := aluReg .cp .d s

/-- `CP A,E` (R126). -/
def execCpAE (s : State) : Out := aluReg .cp .e s

/-- `CP A,H` (R126). -/
def execCpAH (s : State) : Out := aluReg .cp .h s

/-- `CP A,L` (R126). -/
def execCpAL (s : State) : Out := aluReg .cp .l s

/-- `CP A,A` (R126). -/
def execCpAA (s : State) : Out := aluReg .cp .a s

/-- `CP A,(HL)` (R127). -/
def execCpAAtHl (s : State) : Out := aluAtHl .cp s

/-- `CP A,n8` (R128). -/
def execCpAN8 (n : Byte) (s : State) : Out := aluImm .cp n s

/-- `INC B` (R138). -/
def execIncB (s : State) : Out := incReg8 .b s

/-- `INC C` (R138). -/
def execIncC (s : State) : Out := incReg8 .c s

/-- `INC D` (R138). -/
def execIncD (s : State) : Out := incReg8 .d s

/-- `INC E` (R138). -/
def execIncE (s : State) : Out := incReg8 .e s

/-- `INC H` (R138). -/
def execIncH (s : State) : Out := incReg8 .h s

/-- `INC L` (R138). -/
def execIncL (s : State) : Out := incReg8 .l s

/-- `INC A` (R138). -/
def execIncA (s : State) : Out := incReg8 .a s

/-- `INC (HL)` (R139): one load, then one store. -/
def execIncAtHl (s : State) : Out :=
  .next ((((s.afterLoad s.hl).store s.hl (s.loadVal s.hl + 1)).incFlags (s.loadVal s.hl)).cost 3)

/-- `DEC B` (R140). -/
def execDecB (s : State) : Out := decReg8 .b s

/-- `DEC C` (R140). -/
def execDecC (s : State) : Out := decReg8 .c s

/-- `DEC D` (R140). -/
def execDecD (s : State) : Out := decReg8 .d s

/-- `DEC E` (R140). -/
def execDecE (s : State) : Out := decReg8 .e s

/-- `DEC H` (R140). -/
def execDecH (s : State) : Out := decReg8 .h s

/-- `DEC L` (R140). -/
def execDecL (s : State) : Out := decReg8 .l s

/-- `DEC A` (R140). -/
def execDecA (s : State) : Out := decReg8 .a s

/-- `DEC (HL)` (R141): one load, then one store. -/
def execDecAtHl (s : State) : Out :=
  .next ((((s.afterLoad s.hl).store s.hl (s.loadVal s.hl - 1)).decFlags (s.loadVal s.hl)).cost 3)

/-- `DAA` (R142). -/
def execDaa (s : State) : Out :=
  let r := daaAdjust s.regs.a s.flagN s.flagH s.flagC
  .next (((s.setReg8 .a r.1).setFlags (decide (r.1 = 0)) s.flagN false r.2).cost 1)

/-- `CPL` (R143). -/
def execCpl (s : State) : Out := .next (((s.setReg8 .a (s.regs.a ^^^ 0xFF)).setFlags s.flagZ true true s.flagC).cost 1)

/-- `SCF` (R144). -/
def execScf (s : State) : Out := .next ((s.setFlags s.flagZ false false true).cost 1)

/-- `CCF` (R145). -/
def execCcf (s : State) : Out := .next ((s.setFlags s.flagZ false false (!s.flagC)).cost 1)

end Sys2Proof.Machine
end

