-- ==== Sys2Proof/Machine/BitOps.lean ====
section
/-! DEFINITION. The meanings of the rotates, shifts and bit instructions, and of the prefix row (43_bitops.md; 30_encoding.md R75). Each is one line over the shared operations; PC is
already past the bytes of the instruction (Machine/Cycle.lean). -/

namespace Sys2Proof.Machine

/-- `BIT b,r` (R173). -/
def bitReg (b : Fin 8) (r : Reg8) (s : State) : Out := .next ((s.bitFlags (s.reg8 r) b).cost 2)

/-- `BIT b,(HL)`: one load, no store (R174). -/
def bitMem (b : Fin 8) (s : State) : Out := .next (((s.afterLoad s.hl).bitFlags (s.loadVal s.hl) b).cost 3)

/-- `RES b,r` (R175). -/
def resReg (b : Fin 8) (r : Reg8) (s : State) : Out := .next ((s.setReg8 r (s.reg8 r &&& (0xFF ^^^ bitMask b))).cost 2)

/-- `RES b,(HL)`: one load, then one store, even of an unchanged value (R176). -/
def resMem (b : Fin 8) (s : State) : Out :=
  .next (((s.afterLoad s.hl).store s.hl (s.loadVal s.hl &&& (0xFF ^^^ bitMask b))).cost 4)

/-- `SET b,r` (R177). -/
def setReg (b : Fin 8) (r : Reg8) (s : State) : Out := .next ((s.setReg8 r (s.reg8 r ||| bitMask b)).cost 2)

/-- `SET b,(HL)`: one load, then one store (R178). -/
def setMem (b : Fin 8) (s : State) : Out :=
  .next (((s.afterLoad s.hl).store s.hl (s.loadVal s.hl ||| bitMask b)).cost 4)

/-- The CB instruction that the second byte selects: x = 0 the rotates and shifts, 1 BIT, 2 RES, 3 SET; y the operation or the
bit number; z the register or (HL) (30_encoding.md R75, R76, R80, R83). -/
def runCb (op2 : Byte) (s : State) : Out :=
  match fieldX op2, Reg8.ofField (fieldZ op2) with
  | 0, some r => shiftReg8 (ShiftOp.ofField (fieldY op2)) r s
  | 0, none => shiftMem (ShiftOp.ofField (fieldY op2)) s
  | 1, some r => bitReg (bitField op2) r s
  | 1, none => bitMem (bitField op2) s
  | 2, some r => resReg (bitField op2) r s
  | 2, none => resMem (bitField op2) s
  | _, some r => setReg (bitField op2) r s
  | _, none => setMem (bitField op2) s

/-- `RLCA` (R152). -/
def execRlca (s : State) : Out := rotA .rlc s

/-- `RRCA` (R153). -/
def execRrca (s : State) : Out := rotA .rrc s

/-- `RLA` (R154). -/
def execRla (s : State) : Out := rotA .rl s

/-- `RRA` (R155). -/
def execRra (s : State) : Out := rotA .rr s

/-- `RLC r` (R157). -/
def execRlcR (r : Reg8) (s : State) : Out := shiftReg8 .rlc r s

/-- `RLC (HL)` (R158). -/
def execRlcAtHl (s : State) : Out := shiftMem .rlc s

/-- `RRC r` (R159). -/
def execRrcR (r : Reg8) (s : State) : Out := shiftReg8 .rrc r s

/-- `RRC (HL)` (R160). -/
def execRrcAtHl (s : State) : Out := shiftMem .rrc s

/-- `RL r` (R161). -/
def execRlR (r : Reg8) (s : State) : Out := shiftReg8 .rl r s

/-- `RL (HL)` (R162). -/
def execRlAtHl (s : State) : Out := shiftMem .rl s

/-- `RR r` (R163). -/
def execRrR (r : Reg8) (s : State) : Out := shiftReg8 .rr r s

/-- `RR (HL)` (R164). -/
def execRrAtHl (s : State) : Out := shiftMem .rr s

/-- `SLA r` (R165). -/
def execSlaR (r : Reg8) (s : State) : Out := shiftReg8 .sla r s

/-- `SLA (HL)` (R166). -/
def execSlaAtHl (s : State) : Out := shiftMem .sla s

/-- `SRA r` (R167). -/
def execSraR (r : Reg8) (s : State) : Out := shiftReg8 .sra r s

/-- `SRA (HL)` (R168). -/
def execSraAtHl (s : State) : Out := shiftMem .sra s

/-- `SWAP r` (R169). -/
def execSwapR (r : Reg8) (s : State) : Out := shiftReg8 .swap r s

/-- `SWAP (HL)` (R170). -/
def execSwapAtHl (s : State) : Out := shiftMem .swap s

/-- `SRL r` (R171). -/
def execSrlR (r : Reg8) (s : State) : Out := shiftReg8 .srl r s

/-- `SRL (HL)` (R172). -/
def execSrlAtHl (s : State) : Out := shiftMem .srl s

/-- `BIT b,r` (R173). -/
def execBitBR (b : Fin 8) (r : Reg8) (s : State) : Out := bitReg b r s

/-- `BIT b,(HL)` (R174). -/
def execBitBAtHl (b : Fin 8) (s : State) : Out := bitMem b s

/-- `RES b,r` (R175). -/
def execResBR (b : Fin 8) (r : Reg8) (s : State) : Out := resReg b r s

/-- `RES b,(HL)` (R176). -/
def execResBAtHl (b : Fin 8) (s : State) : Out := resMem b s

/-- `SET b,r` (R177). -/
def execSetBR (b : Fin 8) (r : Reg8) (s : State) : Out := setReg b r s

/-- `SET b,(HL)` (R178). -/
def execSetBAtHl (b : Fin 8) (s : State) : Out := setMem b s

/-- The prefix 0xCB (R75): fetch the second byte, then run the CB instruction it selects. -/
def execPrefixCb (s : State) : Out := runCb s.fetchVal s.afterFetch

end Sys2Proof.Machine
end

