-- ==== Sys2Proof/Machine/Control.lean ====
section
/-! DEFINITION. The meanings of the jumps, calls and returns (44_control.md). Each is one line over the shared operations; PC is
already past the bytes of the instruction (Machine/Cycle.lean). -/

namespace Sys2Proof.Machine

/-- `JP a16` (R180). -/
def execJpA16 (w : Word) (s : State) : Out := jumpTo w 4 s

/-- `JP NZ,a16` (R181). -/
def execJpNzA16 (w : Word) (s : State) : Out := jumpIf .nz w 4 3 s

/-- `JP Z,a16` (R181). -/
def execJpZA16 (w : Word) (s : State) : Out := jumpIf .z w 4 3 s

/-- `JP NC,a16` (R181). -/
def execJpNcA16 (w : Word) (s : State) : Out := jumpIf .nc w 4 3 s

/-- `JP C,a16` (R181). -/
def execJpCA16 (w : Word) (s : State) : Out := jumpIf .c w 4 3 s

/-- `JP HL` (R182): the target is HL itself, no memory is read. -/
def execJpHl (s : State) : Out := jumpTo s.hl 1 s

/-- `JR e8` (R183). -/
def execJrE8 (e : Byte) (s : State) : Out := jumpTo (relTarget e s) 3 s

/-- `JR NZ,e8` (R184). -/
def execJrNzE8 (e : Byte) (s : State) : Out := jumpIf .nz (relTarget e s) 3 2 s

/-- `JR Z,e8` (R184). -/
def execJrZE8 (e : Byte) (s : State) : Out := jumpIf .z (relTarget e s) 3 2 s

/-- `JR NC,e8` (R184). -/
def execJrNcE8 (e : Byte) (s : State) : Out := jumpIf .nc (relTarget e s) 3 2 s

/-- `JR C,e8` (R184). -/
def execJrCE8 (e : Byte) (s : State) : Out := jumpIf .c (relTarget e s) 3 2 s

/-- `CALL a16` (R185). -/
def execCallA16 (w : Word) (s : State) : Out := callTo w 6 s

/-- `CALL NZ,a16` (R186). -/
def execCallNzA16 (w : Word) (s : State) : Out := callIf .nz w s

/-- `CALL Z,a16` (R186). -/
def execCallZA16 (w : Word) (s : State) : Out := callIf .z w s

/-- `CALL NC,a16` (R186). -/
def execCallNcA16 (w : Word) (s : State) : Out := callIf .nc w s

/-- `CALL C,a16` (R186). -/
def execCallCA16 (w : Word) (s : State) : Out := callIf .c w s

/-- `RST 0x00` (R187). -/
def execRst00 (s : State) : Out := callTo 0x00 4 s

/-- `RST 0x08` (R187). -/
def execRst08 (s : State) : Out := callTo 0x08 4 s

/-- `RST 0x10` (R187). -/
def execRst10 (s : State) : Out := callTo 0x10 4 s

/-- `RST 0x18` (R187). -/
def execRst18 (s : State) : Out := callTo 0x18 4 s

/-- `RST 0x20` (R187). -/
def execRst20 (s : State) : Out := callTo 0x20 4 s

/-- `RST 0x28` (R187). -/
def execRst28 (s : State) : Out := callTo 0x28 4 s

/-- `RST 0x30` (R187). -/
def execRst30 (s : State) : Out := callTo 0x30 4 s

/-- `RST 0x38` (R187). -/
def execRst38 (s : State) : Out := callTo 0x38 4 s

/-- `RET` (R188). -/
def execRet (s : State) : Out := returnFrom 4 s

/-- `RET NZ` (R189). -/
def execRetNz (s : State) : Out := returnIf .nz s

/-- `RET Z` (R189). -/
def execRetZ (s : State) : Out := returnIf .z s

/-- `RET NC` (R189). -/
def execRetNc (s : State) : Out := returnIf .nc s

/-- `RET C` (R189). -/
def execRetC (s : State) : Out := returnIf .c s

/-- `RETI` (R190): IME becomes true at once. -/
def execReti (s : State) : Out := .next ((interruptReturn s).cost 4)

end Sys2Proof.Machine
end

