-- ==== Sys2Proof/Machine/Loads.lean ====
section
/-! DEFINITION. The meanings of the loads, stores, PUSH and POP (40_loads.md). Each is one line over the shared operations; PC is
already past the bytes of the instruction (Machine/Cycle.lean). -/

namespace Sys2Proof.Machine

/-- `LD B,B` (R87). -/
def execLdBB (s : State) : Out := ldRegFromReg .b .b s

/-- `LD B,C` (R87). -/
def execLdBC (s : State) : Out := ldRegFromReg .b .c s

/-- `LD B,D` (R87). -/
def execLdBD (s : State) : Out := ldRegFromReg .b .d s

/-- `LD B,E` (R87). -/
def execLdBE (s : State) : Out := ldRegFromReg .b .e s

/-- `LD B,H` (R87). -/
def execLdBH (s : State) : Out := ldRegFromReg .b .h s

/-- `LD B,L` (R87). -/
def execLdBL (s : State) : Out := ldRegFromReg .b .l s

/-- `LD B,A` (R87). -/
def execLdBA (s : State) : Out := ldRegFromReg .b .a s

/-- `LD C,B` (R87). -/
def execLdCB (s : State) : Out := ldRegFromReg .c .b s

/-- `LD C,C` (R87). -/
def execLdCC (s : State) : Out := ldRegFromReg .c .c s

/-- `LD C,D` (R87). -/
def execLdCD (s : State) : Out := ldRegFromReg .c .d s

/-- `LD C,E` (R87). -/
def execLdCE (s : State) : Out := ldRegFromReg .c .e s

/-- `LD C,H` (R87). -/
def execLdCH (s : State) : Out := ldRegFromReg .c .h s

/-- `LD C,L` (R87). -/
def execLdCL (s : State) : Out := ldRegFromReg .c .l s

/-- `LD C,A` (R87). -/
def execLdCA (s : State) : Out := ldRegFromReg .c .a s

/-- `LD D,B` (R87). -/
def execLdDB (s : State) : Out := ldRegFromReg .d .b s

/-- `LD D,C` (R87). -/
def execLdDC (s : State) : Out := ldRegFromReg .d .c s

/-- `LD D,D` (R87). -/
def execLdDD (s : State) : Out := ldRegFromReg .d .d s

/-- `LD D,E` (R87). -/
def execLdDE (s : State) : Out := ldRegFromReg .d .e s

/-- `LD D,H` (R87). -/
def execLdDH (s : State) : Out := ldRegFromReg .d .h s

/-- `LD D,L` (R87). -/
def execLdDL (s : State) : Out := ldRegFromReg .d .l s

/-- `LD D,A` (R87). -/
def execLdDA (s : State) : Out := ldRegFromReg .d .a s

/-- `LD E,B` (R87). -/
def execLdEB (s : State) : Out := ldRegFromReg .e .b s

/-- `LD E,C` (R87). -/
def execLdEC (s : State) : Out := ldRegFromReg .e .c s

/-- `LD E,D` (R87). -/
def execLdED (s : State) : Out := ldRegFromReg .e .d s

/-- `LD E,E` (R87). -/
def execLdEE (s : State) : Out := ldRegFromReg .e .e s

/-- `LD E,H` (R87). -/
def execLdEH (s : State) : Out := ldRegFromReg .e .h s

/-- `LD E,L` (R87). -/
def execLdEL (s : State) : Out := ldRegFromReg .e .l s

/-- `LD E,A` (R87). -/
def execLdEA (s : State) : Out := ldRegFromReg .e .a s

/-- `LD H,B` (R87). -/
def execLdHB (s : State) : Out := ldRegFromReg .h .b s

/-- `LD H,C` (R87). -/
def execLdHC (s : State) : Out := ldRegFromReg .h .c s

/-- `LD H,D` (R87). -/
def execLdHD (s : State) : Out := ldRegFromReg .h .d s

/-- `LD H,E` (R87). -/
def execLdHE (s : State) : Out := ldRegFromReg .h .e s

/-- `LD H,H` (R87). -/
def execLdHH (s : State) : Out := ldRegFromReg .h .h s

/-- `LD H,L` (R87). -/
def execLdHL (s : State) : Out := ldRegFromReg .h .l s

/-- `LD H,A` (R87). -/
def execLdHA (s : State) : Out := ldRegFromReg .h .a s

/-- `LD L,B` (R87). -/
def execLdLB (s : State) : Out := ldRegFromReg .l .b s

/-- `LD L,C` (R87). -/
def execLdLC (s : State) : Out := ldRegFromReg .l .c s

/-- `LD L,D` (R87). -/
def execLdLD (s : State) : Out := ldRegFromReg .l .d s

/-- `LD L,E` (R87). -/
def execLdLE (s : State) : Out := ldRegFromReg .l .e s

/-- `LD L,H` (R87). -/
def execLdLH (s : State) : Out := ldRegFromReg .l .h s

/-- `LD L,L` (R87). -/
def execLdLL (s : State) : Out := ldRegFromReg .l .l s

/-- `LD L,A` (R87). -/
def execLdLA (s : State) : Out := ldRegFromReg .l .a s

/-- `LD A,B` (R87). -/
def execLdAB (s : State) : Out := ldRegFromReg .a .b s

/-- `LD A,C` (R87). -/
def execLdAC (s : State) : Out := ldRegFromReg .a .c s

/-- `LD A,D` (R87). -/
def execLdAD (s : State) : Out := ldRegFromReg .a .d s

/-- `LD A,E` (R87). -/
def execLdAE (s : State) : Out := ldRegFromReg .a .e s

/-- `LD A,H` (R87). -/
def execLdAH (s : State) : Out := ldRegFromReg .a .h s

/-- `LD A,L` (R87). -/
def execLdAL (s : State) : Out := ldRegFromReg .a .l s

/-- `LD A,A` (R87). -/
def execLdAA (s : State) : Out := ldRegFromReg .a .a s

/-- `LD B,n8` (R88). -/
def execLdBN8 (n : Byte) (s : State) : Out := ldRegFromImm .b n s

/-- `LD C,n8` (R88). -/
def execLdCN8 (n : Byte) (s : State) : Out := ldRegFromImm .c n s

/-- `LD D,n8` (R88). -/
def execLdDN8 (n : Byte) (s : State) : Out := ldRegFromImm .d n s

/-- `LD E,n8` (R88). -/
def execLdEN8 (n : Byte) (s : State) : Out := ldRegFromImm .e n s

/-- `LD H,n8` (R88). -/
def execLdHN8 (n : Byte) (s : State) : Out := ldRegFromImm .h n s

/-- `LD L,n8` (R88). -/
def execLdLN8 (n : Byte) (s : State) : Out := ldRegFromImm .l n s

/-- `LD A,n8` (R88). -/
def execLdAN8 (n : Byte) (s : State) : Out := ldRegFromImm .a n s

/-- `LD B,(HL)` (R89). -/
def execLdBAtHl (s : State) : Out := ldRegFromMem .b s.hl 2 s

/-- `LD C,(HL)` (R89). -/
def execLdCAtHl (s : State) : Out := ldRegFromMem .c s.hl 2 s

/-- `LD D,(HL)` (R89). -/
def execLdDAtHl (s : State) : Out := ldRegFromMem .d s.hl 2 s

/-- `LD E,(HL)` (R89). -/
def execLdEAtHl (s : State) : Out := ldRegFromMem .e s.hl 2 s

/-- `LD H,(HL)` (R89). -/
def execLdHAtHl (s : State) : Out := ldRegFromMem .h s.hl 2 s

/-- `LD L,(HL)` (R89). -/
def execLdLAtHl (s : State) : Out := ldRegFromMem .l s.hl 2 s

/-- `LD A,(HL)` (R89). -/
def execLdAAtHl (s : State) : Out := ldRegFromMem .a s.hl 2 s

/-- `LD (HL),B` (R90). -/
def execLdAtHlB (s : State) : Out := stMem s.hl (s.reg8 .b) 2 s

/-- `LD (HL),C` (R90). -/
def execLdAtHlC (s : State) : Out := stMem s.hl (s.reg8 .c) 2 s

/-- `LD (HL),D` (R90). -/
def execLdAtHlD (s : State) : Out := stMem s.hl (s.reg8 .d) 2 s

/-- `LD (HL),E` (R90). -/
def execLdAtHlE (s : State) : Out := stMem s.hl (s.reg8 .e) 2 s

/-- `LD (HL),H` (R90). -/
def execLdAtHlH (s : State) : Out := stMem s.hl (s.reg8 .h) 2 s

/-- `LD (HL),L` (R90). -/
def execLdAtHlL (s : State) : Out := stMem s.hl (s.reg8 .l) 2 s

/-- `LD (HL),A` (R90). -/
def execLdAtHlA (s : State) : Out := stMem s.hl (s.reg8 .a) 2 s

/-- `LD (HL),n8` (R91). -/
def execLdAtHlN8 (n : Byte) (s : State) : Out := stMem s.hl n 3 s

/-- `LD A,(BC)` (R92). -/
def execLdAAtBc (s : State) : Out := ldRegFromMem .a s.bc 2 s

/-- `LD A,(DE)` (R93). -/
def execLdAAtDe (s : State) : Out := ldRegFromMem .a s.de 2 s

/-- `LD (BC),A` (R94). -/
def execLdAtBcA (s : State) : Out := stMem s.bc s.regs.a 2 s

/-- `LD (DE),A` (R95). -/
def execLdAtDeA (s : State) : Out := stMem s.de s.regs.a 2 s

/-- `LD (HL+),A` (R96). -/
def execLdAtHlIncA (s : State) : Out := stAtHlMove 1 s

/-- `LD A,(HL+)` (R97). -/
def execLdAAtHlInc (s : State) : Out := ldAtHlMove 1 s

/-- `LD (HL-),A` (R98). -/
def execLdAtHlDecA (s : State) : Out := stAtHlMove (-1) s

/-- `LD A,(HL-)` (R99). -/
def execLdAAtHlDec (s : State) : Out := ldAtHlMove (-1) s

/-- `LD A,(a16)` (R100). -/
def execLdAAtA16 (w : Word) (s : State) : Out := ldRegFromMem .a w 4 s

/-- `LD (a16),A` (R101). -/
def execLdAtA16A (w : Word) (s : State) : Out := stMem w s.regs.a 4 s

/-- `LDH A,(a8)` (R102). -/
def execLdhAAtA8 (o : Byte) (s : State) : Out := ldRegFromMem .a (highPage o) 3 s

/-- `LDH (a8),A` (R103). -/
def execLdhAtA8A (o : Byte) (s : State) : Out := stMem (highPage o) s.regs.a 3 s

/-- `LD A,(C)` (R104). -/
def execLdAAtC (s : State) : Out := ldRegFromMem .a (highPage s.regs.c) 2 s

/-- `LD (C),A` (R105). -/
def execLdAtCA (s : State) : Out := stMem (highPage s.regs.c) s.regs.a 2 s

/-- `LD BC,n16` (R106). -/
def execLdBcN16 (w : Word) (s : State) : Out := ldPairFromImm .bc w s

/-- `LD DE,n16` (R106). -/
def execLdDeN16 (w : Word) (s : State) : Out := ldPairFromImm .de w s

/-- `LD HL,n16` (R106). -/
def execLdHlN16 (w : Word) (s : State) : Out := ldPairFromImm .hl w s

/-- `LD SP,n16` (R106). -/
def execLdSpN16 (w : Word) (s : State) : Out := ldPairFromImm .sp w s

/-- `LD (a16),SP` (R107): the low byte first. -/
def execLdAtA16Sp (w : Word) (s : State) : Out :=
  .next (((s.store w (loByte s.regs.sp)).store (w + 1) (hiByte s.regs.sp)).cost 5)

/-- `LD SP,HL` (R108). -/
def execLdSpHl (s : State) : Out := .next ((s.setSp s.hl).cost 2)

/-- `PUSH BC` (R109). -/
def execPushBc (s : State) : Out := pushPair .bc s

/-- `PUSH DE` (R109). -/
def execPushDe (s : State) : Out := pushPair .de s

/-- `PUSH HL` (R109). -/
def execPushHl (s : State) : Out := pushPair .hl s

/-- `PUSH AF` (R109). -/
def execPushAf (s : State) : Out := pushPair .af s

/-- `POP BC` (R110). -/
def execPopBc (s : State) : Out := popPair .bc s

/-- `POP DE` (R110). -/
def execPopDe (s : State) : Out := popPair .de s

/-- `POP HL` (R110). -/
def execPopHl (s : State) : Out := popPair .hl s

/-- `POP AF` (R111). -/
def execPopAf (s : State) : Out := popPair .af s

end Sys2Proof.Machine
end

