-- ==== Sys2Proof/Machine/System.lean ====
section
/-! DEFINITION. The meanings of the system instructions, the illegal opcodes and the pseudo-opcodes (45_system.md; 60_exceptions.md R206, R207). Each is one line over the shared operations; PC is
already past the bytes of the instruction (Machine/Cycle.lean). -/

namespace Sys2Proof.Machine

/-- `NOP` (R191). -/
def execNop (s : State) : Out := .next (s.cost 1)

/-- `DI` (R192). -/
def execDi (s : State) : Out := .next (State.cost { s with cpu.ime := false, cpu.eiDelay := 0 } 1)

/-- `EI` (R193). -/
def execEi (s : State) : Out := .next (State.cost (if s.cpu.eiDelay = 0 then { s with cpu.eiDelay := 2 } else s) 1)

/-- `HALT` (R195): with IME false and an enabled request pending, the halt bug; else the CPU halts. -/
def execHalt (s : State) : Out :=
  if s.cpu.ime = false ∧ s.pending ≠ 0 then .next (State.cost { s with cpu.haltBug := true } 1)
  else .next (State.cost { s with cpu.halted := true } 1)

/-- `STOP` (R199): the spec gives it no behaviour but the refusal; its second byte is not read. -/
def execStop (_ : Byte) (s : State) : Out := .refused (.stopNotModelled s.cpu.instrAddr)

/-- The illegal opcode 0xD3 (R200). -/
def execIllegalD3 (s : State) : Out := illegalOpcode 0xD3 s

/-- The illegal opcode 0xDB (R200). -/
def execIllegalDB (s : State) : Out := illegalOpcode 0xDB s

/-- The illegal opcode 0xDD (R200). -/
def execIllegalDD (s : State) : Out := illegalOpcode 0xDD s

/-- The illegal opcode 0xE3 (R200). -/
def execIllegalE3 (s : State) : Out := illegalOpcode 0xE3 s

/-- The illegal opcode 0xE4 (R200). -/
def execIllegalE4 (s : State) : Out := illegalOpcode 0xE4 s

/-- The illegal opcode 0xEB (R200). -/
def execIllegalEB (s : State) : Out := illegalOpcode 0xEB s

/-- The illegal opcode 0xEC (R200). -/
def execIllegalEC (s : State) : Out := illegalOpcode 0xEC s

/-- The illegal opcode 0xED (R200). -/
def execIllegalED (s : State) : Out := illegalOpcode 0xED s

/-- The illegal opcode 0xF4 (R200). -/
def execIllegalF4 (s : State) : Out := illegalOpcode 0xF4 s

/-- The illegal opcode 0xFC (R200). -/
def execIllegalFC (s : State) : Out := illegalOpcode 0xFC s

/-- The illegal opcode 0xFD (R200). -/
def execIllegalFD (s : State) : Out := illegalOpcode 0xFD s

/-- The `HALTING` sentinel (R196): no memory is read, PC and the flags stay. -/
def execHalting (s : State) : Out := .next (s.cost 1)

/-- `INT(k)` (R206), after the entry `interruptEntry`. -/
def execInterrupt (k : IrqSource) (s : State) : Out := .next ((serviceInterrupt k s).cost 5)

/-- `INT_CANCELLED` (R207), after the entry `interruptEntry`. -/
def execIntCancelled (s : State) : Out := .next ((s.setPc 0).cost 5)

end Sys2Proof.Machine
end

