-- ==== Sys2Proof/Machine/Dispatch.lean ====
section
/-! DEFINITION. The dispatch: every constructor of `Instr` runs its own meaning (30_encoding.md R72). -/

namespace Sys2Proof.Machine

/-- What an instruction does, with PC already past its bytes. -/
def exec (i : Instr) (s : State) : Host.Outcome State Fault Refusal :=
  match i with
  | .nop => Sys2Proof.Machine.execNop s
  | .ldBcN16 w => Sys2Proof.Machine.execLdBcN16 w s
  | .ldAtBcA => Sys2Proof.Machine.execLdAtBcA s
  | .incBc => Sys2Proof.Machine.execIncBc s
  | .incB => Sys2Proof.Machine.execIncB s
  | .decB => Sys2Proof.Machine.execDecB s
  | .ldBN8 n => Sys2Proof.Machine.execLdBN8 n s
  | .rlca => Sys2Proof.Machine.execRlca s
  | .ldAtA16Sp w => Sys2Proof.Machine.execLdAtA16Sp w s
  | .addHlBc => Sys2Proof.Machine.execAddHlBc s
  | .ldAAtBc => Sys2Proof.Machine.execLdAAtBc s
  | .decBc => Sys2Proof.Machine.execDecBc s
  | .incC => Sys2Proof.Machine.execIncC s
  | .decC => Sys2Proof.Machine.execDecC s
  | .ldCN8 n => Sys2Proof.Machine.execLdCN8 n s
  | .rrca => Sys2Proof.Machine.execRrca s
  | .stop n => Sys2Proof.Machine.execStop n s
  | .ldDeN16 w => Sys2Proof.Machine.execLdDeN16 w s
  | .ldAtDeA => Sys2Proof.Machine.execLdAtDeA s
  | .incDe => Sys2Proof.Machine.execIncDe s
  | .incD => Sys2Proof.Machine.execIncD s
  | .decD => Sys2Proof.Machine.execDecD s
  | .ldDN8 n => Sys2Proof.Machine.execLdDN8 n s
  | .rla => Sys2Proof.Machine.execRla s
  | .jrE8 e => Sys2Proof.Machine.execJrE8 e s
  | .addHlDe => Sys2Proof.Machine.execAddHlDe s
  | .ldAAtDe => Sys2Proof.Machine.execLdAAtDe s
  | .decDe => Sys2Proof.Machine.execDecDe s
  | .incE => Sys2Proof.Machine.execIncE s
  | .decE => Sys2Proof.Machine.execDecE s
  | .ldEN8 n => Sys2Proof.Machine.execLdEN8 n s
  | .rra => Sys2Proof.Machine.execRra s
  | .jrNzE8 e => Sys2Proof.Machine.execJrNzE8 e s
  | .ldHlN16 w => Sys2Proof.Machine.execLdHlN16 w s
  | .ldAtHlIncA => Sys2Proof.Machine.execLdAtHlIncA s
  | .incHl => Sys2Proof.Machine.execIncHl s
  | .incH => Sys2Proof.Machine.execIncH s
  | .decH => Sys2Proof.Machine.execDecH s
  | .ldHN8 n => Sys2Proof.Machine.execLdHN8 n s
  | .daa => Sys2Proof.Machine.execDaa s
  | .jrZE8 e => Sys2Proof.Machine.execJrZE8 e s
  | .addHlHl => Sys2Proof.Machine.execAddHlHl s
  | .ldAAtHlInc => Sys2Proof.Machine.execLdAAtHlInc s
  | .decHl => Sys2Proof.Machine.execDecHl s
  | .incL => Sys2Proof.Machine.execIncL s
  | .decL => Sys2Proof.Machine.execDecL s
  | .ldLN8 n => Sys2Proof.Machine.execLdLN8 n s
  | .cpl => Sys2Proof.Machine.execCpl s
  | .jrNcE8 e => Sys2Proof.Machine.execJrNcE8 e s
  | .ldSpN16 w => Sys2Proof.Machine.execLdSpN16 w s
  | .ldAtHlDecA => Sys2Proof.Machine.execLdAtHlDecA s
  | .incSp => Sys2Proof.Machine.execIncSp s
  | .incAtHl => Sys2Proof.Machine.execIncAtHl s
  | .decAtHl => Sys2Proof.Machine.execDecAtHl s
  | .ldAtHlN8 n => Sys2Proof.Machine.execLdAtHlN8 n s
  | .scf => Sys2Proof.Machine.execScf s
  | .jrCE8 e => Sys2Proof.Machine.execJrCE8 e s
  | .addHlSp => Sys2Proof.Machine.execAddHlSp s
  | .ldAAtHlDec => Sys2Proof.Machine.execLdAAtHlDec s
  | .decSp => Sys2Proof.Machine.execDecSp s
  | .incA => Sys2Proof.Machine.execIncA s
  | .decA => Sys2Proof.Machine.execDecA s
  | .ldAN8 n => Sys2Proof.Machine.execLdAN8 n s
  | .ccf => Sys2Proof.Machine.execCcf s
  | .ldBB => Sys2Proof.Machine.execLdBB s
  | .ldBC => Sys2Proof.Machine.execLdBC s
  | .ldBD => Sys2Proof.Machine.execLdBD s
  | .ldBE => Sys2Proof.Machine.execLdBE s
  | .ldBH => Sys2Proof.Machine.execLdBH s
  | .ldBL => Sys2Proof.Machine.execLdBL s
  | .ldBAtHl => Sys2Proof.Machine.execLdBAtHl s
  | .ldBA => Sys2Proof.Machine.execLdBA s
  | .ldCB => Sys2Proof.Machine.execLdCB s
  | .ldCC => Sys2Proof.Machine.execLdCC s
  | .ldCD => Sys2Proof.Machine.execLdCD s
  | .ldCE => Sys2Proof.Machine.execLdCE s
  | .ldCH => Sys2Proof.Machine.execLdCH s
  | .ldCL => Sys2Proof.Machine.execLdCL s
  | .ldCAtHl => Sys2Proof.Machine.execLdCAtHl s
  | .ldCA => Sys2Proof.Machine.execLdCA s
  | .ldDB => Sys2Proof.Machine.execLdDB s
  | .ldDC => Sys2Proof.Machine.execLdDC s
  | .ldDD => Sys2Proof.Machine.execLdDD s
  | .ldDE => Sys2Proof.Machine.execLdDE s
  | .ldDH => Sys2Proof.Machine.execLdDH s
  | .ldDL => Sys2Proof.Machine.execLdDL s
  | .ldDAtHl => Sys2Proof.Machine.execLdDAtHl s
  | .ldDA => Sys2Proof.Machine.execLdDA s
  | .ldEB => Sys2Proof.Machine.execLdEB s
  | .ldEC => Sys2Proof.Machine.execLdEC s
  | .ldED => Sys2Proof.Machine.execLdED s
  | .ldEE => Sys2Proof.Machine.execLdEE s
  | .ldEH => Sys2Proof.Machine.execLdEH s
  | .ldEL => Sys2Proof.Machine.execLdEL s
  | .ldEAtHl => Sys2Proof.Machine.execLdEAtHl s
  | .ldEA => Sys2Proof.Machine.execLdEA s
  | .ldHB => Sys2Proof.Machine.execLdHB s
  | .ldHC => Sys2Proof.Machine.execLdHC s
  | .ldHD => Sys2Proof.Machine.execLdHD s
  | .ldHE => Sys2Proof.Machine.execLdHE s
  | .ldHH => Sys2Proof.Machine.execLdHH s
  | .ldHL => Sys2Proof.Machine.execLdHL s
  | .ldHAtHl => Sys2Proof.Machine.execLdHAtHl s
  | .ldHA => Sys2Proof.Machine.execLdHA s
  | .ldLB => Sys2Proof.Machine.execLdLB s
  | .ldLC => Sys2Proof.Machine.execLdLC s
  | .ldLD => Sys2Proof.Machine.execLdLD s
  | .ldLE => Sys2Proof.Machine.execLdLE s
  | .ldLH => Sys2Proof.Machine.execLdLH s
  | .ldLL => Sys2Proof.Machine.execLdLL s
  | .ldLAtHl => Sys2Proof.Machine.execLdLAtHl s
  | .ldLA => Sys2Proof.Machine.execLdLA s
  | .ldAtHlB => Sys2Proof.Machine.execLdAtHlB s
  | .ldAtHlC => Sys2Proof.Machine.execLdAtHlC s
  | .ldAtHlD => Sys2Proof.Machine.execLdAtHlD s
  | .ldAtHlE => Sys2Proof.Machine.execLdAtHlE s
  | .ldAtHlH => Sys2Proof.Machine.execLdAtHlH s
  | .ldAtHlL => Sys2Proof.Machine.execLdAtHlL s
  | .halt => Sys2Proof.Machine.execHalt s
  | .ldAtHlA => Sys2Proof.Machine.execLdAtHlA s
  | .ldAB => Sys2Proof.Machine.execLdAB s
  | .ldAC => Sys2Proof.Machine.execLdAC s
  | .ldAD => Sys2Proof.Machine.execLdAD s
  | .ldAE => Sys2Proof.Machine.execLdAE s
  | .ldAH => Sys2Proof.Machine.execLdAH s
  | .ldAL => Sys2Proof.Machine.execLdAL s
  | .ldAAtHl => Sys2Proof.Machine.execLdAAtHl s
  | .ldAA => Sys2Proof.Machine.execLdAA s
  | .addAB => Sys2Proof.Machine.execAddAB s
  | .addAC => Sys2Proof.Machine.execAddAC s
  | .addAD => Sys2Proof.Machine.execAddAD s
  | .addAE => Sys2Proof.Machine.execAddAE s
  | .addAH => Sys2Proof.Machine.execAddAH s
  | .addAL => Sys2Proof.Machine.execAddAL s
  | .addAAtHl => Sys2Proof.Machine.execAddAAtHl s
  | .addAA => Sys2Proof.Machine.execAddAA s
  | .adcAB => Sys2Proof.Machine.execAdcAB s
  | .adcAC => Sys2Proof.Machine.execAdcAC s
  | .adcAD => Sys2Proof.Machine.execAdcAD s
  | .adcAE => Sys2Proof.Machine.execAdcAE s
  | .adcAH => Sys2Proof.Machine.execAdcAH s
  | .adcAL => Sys2Proof.Machine.execAdcAL s
  | .adcAAtHl => Sys2Proof.Machine.execAdcAAtHl s
  | .adcAA => Sys2Proof.Machine.execAdcAA s
  | .subAB => Sys2Proof.Machine.execSubAB s
  | .subAC => Sys2Proof.Machine.execSubAC s
  | .subAD => Sys2Proof.Machine.execSubAD s
  | .subAE => Sys2Proof.Machine.execSubAE s
  | .subAH => Sys2Proof.Machine.execSubAH s
  | .subAL => Sys2Proof.Machine.execSubAL s
  | .subAAtHl => Sys2Proof.Machine.execSubAAtHl s
  | .subAA => Sys2Proof.Machine.execSubAA s
  | .sbcAB => Sys2Proof.Machine.execSbcAB s
  | .sbcAC => Sys2Proof.Machine.execSbcAC s
  | .sbcAD => Sys2Proof.Machine.execSbcAD s
  | .sbcAE => Sys2Proof.Machine.execSbcAE s
  | .sbcAH => Sys2Proof.Machine.execSbcAH s
  | .sbcAL => Sys2Proof.Machine.execSbcAL s
  | .sbcAAtHl => Sys2Proof.Machine.execSbcAAtHl s
  | .sbcAA => Sys2Proof.Machine.execSbcAA s
  | .andAB => Sys2Proof.Machine.execAndAB s
  | .andAC => Sys2Proof.Machine.execAndAC s
  | .andAD => Sys2Proof.Machine.execAndAD s
  | .andAE => Sys2Proof.Machine.execAndAE s
  | .andAH => Sys2Proof.Machine.execAndAH s
  | .andAL => Sys2Proof.Machine.execAndAL s
  | .andAAtHl => Sys2Proof.Machine.execAndAAtHl s
  | .andAA => Sys2Proof.Machine.execAndAA s
  | .xorAB => Sys2Proof.Machine.execXorAB s
  | .xorAC => Sys2Proof.Machine.execXorAC s
  | .xorAD => Sys2Proof.Machine.execXorAD s
  | .xorAE => Sys2Proof.Machine.execXorAE s
  | .xorAH => Sys2Proof.Machine.execXorAH s
  | .xorAL => Sys2Proof.Machine.execXorAL s
  | .xorAAtHl => Sys2Proof.Machine.execXorAAtHl s
  | .xorAA => Sys2Proof.Machine.execXorAA s
  | .orAB => Sys2Proof.Machine.execOrAB s
  | .orAC => Sys2Proof.Machine.execOrAC s
  | .orAD => Sys2Proof.Machine.execOrAD s
  | .orAE => Sys2Proof.Machine.execOrAE s
  | .orAH => Sys2Proof.Machine.execOrAH s
  | .orAL => Sys2Proof.Machine.execOrAL s
  | .orAAtHl => Sys2Proof.Machine.execOrAAtHl s
  | .orAA => Sys2Proof.Machine.execOrAA s
  | .cpAB => Sys2Proof.Machine.execCpAB s
  | .cpAC => Sys2Proof.Machine.execCpAC s
  | .cpAD => Sys2Proof.Machine.execCpAD s
  | .cpAE => Sys2Proof.Machine.execCpAE s
  | .cpAH => Sys2Proof.Machine.execCpAH s
  | .cpAL => Sys2Proof.Machine.execCpAL s
  | .cpAAtHl => Sys2Proof.Machine.execCpAAtHl s
  | .cpAA => Sys2Proof.Machine.execCpAA s
  | .retNz => Sys2Proof.Machine.execRetNz s
  | .popBc => Sys2Proof.Machine.execPopBc s
  | .jpNzA16 w => Sys2Proof.Machine.execJpNzA16 w s
  | .jpA16 w => Sys2Proof.Machine.execJpA16 w s
  | .callNzA16 w => Sys2Proof.Machine.execCallNzA16 w s
  | .pushBc => Sys2Proof.Machine.execPushBc s
  | .addAN8 n => Sys2Proof.Machine.execAddAN8 n s
  | .rst00 => Sys2Proof.Machine.execRst00 s
  | .retZ => Sys2Proof.Machine.execRetZ s
  | .ret => Sys2Proof.Machine.execRet s
  | .jpZA16 w => Sys2Proof.Machine.execJpZA16 w s
  | .callZA16 w => Sys2Proof.Machine.execCallZA16 w s
  | .callA16 w => Sys2Proof.Machine.execCallA16 w s
  | .adcAN8 n => Sys2Proof.Machine.execAdcAN8 n s
  | .rst08 => Sys2Proof.Machine.execRst08 s
  | .retNc => Sys2Proof.Machine.execRetNc s
  | .popDe => Sys2Proof.Machine.execPopDe s
  | .jpNcA16 w => Sys2Proof.Machine.execJpNcA16 w s
  | .illegalD3 => Sys2Proof.Machine.execIllegalD3 s
  | .callNcA16 w => Sys2Proof.Machine.execCallNcA16 w s
  | .pushDe => Sys2Proof.Machine.execPushDe s
  | .subAN8 n => Sys2Proof.Machine.execSubAN8 n s
  | .rst10 => Sys2Proof.Machine.execRst10 s
  | .retC => Sys2Proof.Machine.execRetC s
  | .reti => Sys2Proof.Machine.execReti s
  | .jpCA16 w => Sys2Proof.Machine.execJpCA16 w s
  | .illegalDB => Sys2Proof.Machine.execIllegalDB s
  | .callCA16 w => Sys2Proof.Machine.execCallCA16 w s
  | .illegalDD => Sys2Proof.Machine.execIllegalDD s
  | .sbcAN8 n => Sys2Proof.Machine.execSbcAN8 n s
  | .rst18 => Sys2Proof.Machine.execRst18 s
  | .ldhAtA8A o => Sys2Proof.Machine.execLdhAtA8A o s
  | .popHl => Sys2Proof.Machine.execPopHl s
  | .ldAtCA => Sys2Proof.Machine.execLdAtCA s
  | .illegalE3 => Sys2Proof.Machine.execIllegalE3 s
  | .illegalE4 => Sys2Proof.Machine.execIllegalE4 s
  | .pushHl => Sys2Proof.Machine.execPushHl s
  | .andAN8 n => Sys2Proof.Machine.execAndAN8 n s
  | .rst20 => Sys2Proof.Machine.execRst20 s
  | .addSpE8 e => Sys2Proof.Machine.execAddSpE8 e s
  | .jpHl => Sys2Proof.Machine.execJpHl s
  | .ldAtA16A w => Sys2Proof.Machine.execLdAtA16A w s
  | .illegalEB => Sys2Proof.Machine.execIllegalEB s
  | .illegalEC => Sys2Proof.Machine.execIllegalEC s
  | .illegalED => Sys2Proof.Machine.execIllegalED s
  | .xorAN8 n => Sys2Proof.Machine.execXorAN8 n s
  | .rst28 => Sys2Proof.Machine.execRst28 s
  | .ldhAAtA8 o => Sys2Proof.Machine.execLdhAAtA8 o s
  | .popAf => Sys2Proof.Machine.execPopAf s
  | .ldAAtC => Sys2Proof.Machine.execLdAAtC s
  | .di => Sys2Proof.Machine.execDi s
  | .illegalF4 => Sys2Proof.Machine.execIllegalF4 s
  | .pushAf => Sys2Proof.Machine.execPushAf s
  | .orAN8 n => Sys2Proof.Machine.execOrAN8 n s
  | .rst30 => Sys2Proof.Machine.execRst30 s
  | .ldHlSpE8 e => Sys2Proof.Machine.execLdHlSpE8 e s
  | .ldSpHl => Sys2Proof.Machine.execLdSpHl s
  | .ldAAtA16 w => Sys2Proof.Machine.execLdAAtA16 w s
  | .ei => Sys2Proof.Machine.execEi s
  | .illegalFC => Sys2Proof.Machine.execIllegalFC s
  | .illegalFD => Sys2Proof.Machine.execIllegalFD s
  | .cpAN8 n => Sys2Proof.Machine.execCpAN8 n s
  | .rst38 => Sys2Proof.Machine.execRst38 s
  | .prefixCb => Sys2Proof.Machine.execPrefixCb s
  | .rlcR r => Sys2Proof.Machine.execRlcR r s
  | .rlcAtHl => Sys2Proof.Machine.execRlcAtHl s
  | .rrcR r => Sys2Proof.Machine.execRrcR r s
  | .rrcAtHl => Sys2Proof.Machine.execRrcAtHl s
  | .rlR r => Sys2Proof.Machine.execRlR r s
  | .rlAtHl => Sys2Proof.Machine.execRlAtHl s
  | .rrR r => Sys2Proof.Machine.execRrR r s
  | .rrAtHl => Sys2Proof.Machine.execRrAtHl s
  | .slaR r => Sys2Proof.Machine.execSlaR r s
  | .slaAtHl => Sys2Proof.Machine.execSlaAtHl s
  | .sraR r => Sys2Proof.Machine.execSraR r s
  | .sraAtHl => Sys2Proof.Machine.execSraAtHl s
  | .swapR r => Sys2Proof.Machine.execSwapR r s
  | .swapAtHl => Sys2Proof.Machine.execSwapAtHl s
  | .srlR r => Sys2Proof.Machine.execSrlR r s
  | .srlAtHl => Sys2Proof.Machine.execSrlAtHl s
  | .bitBR b r => Sys2Proof.Machine.execBitBR b r s
  | .bitBAtHl b => Sys2Proof.Machine.execBitBAtHl b s
  | .resBR b r => Sys2Proof.Machine.execResBR b r s
  | .resBAtHl b => Sys2Proof.Machine.execResBAtHl b s
  | .setBR b r => Sys2Proof.Machine.execSetBR b r s
  | .setBAtHl b => Sys2Proof.Machine.execSetBAtHl b s
  | .halting => Sys2Proof.Machine.execHalting s
  | .interrupt k => Sys2Proof.Machine.execInterrupt k s
  | .intCancelled => Sys2Proof.Machine.execIntCancelled s

end Sys2Proof.Machine
end

