-- ==== Sys2Proof/Machine/Cycle.lean ====
section
/-! DEFINITION. The CPU cycle (30_encoding.md R71 to R75), the CPU step (70_reset_and_hazards.md R241), the steps of the devices in
one tick (20_memory.md R66), and what a stop records (00_scope.md R14). -/

namespace Sys2Proof.Machine

/-! ### The five parts of a cycle (R71) -/

/-- Steps 1 and 2: `resolveEI()`, then `instrAddr <- PC`. -/
def beginCycle (s : State) : State :=
  let s1 := resolveEi s
  { s1 with cpu.instrAddr := s1.regs.pc }

/-- The opcode fetch of step 3: the byte at PC, which the halt bug does not pass (45_system.md R198), and the second byte after
the prefix 0xCB (R75). -/
def fetchOpcode (s : State) : OpcodeId × State :=
  let b := s.fetchVal
  let s1 := if s.cpu.haltBug then { s.afterLoad s.regs.pc with cpu.haltBug := false } else s.afterFetch
  if b = 0xCB then (.cb s1.fetchVal, s1.afterFetch) else (.byte b, s1)

/-- An enabled request is pending and IME lets it through (60_exceptions.md R205). -/
def State.dispatches (s : State) : Bool := s.cpu.ime && s.pending != 0

/-- A request wakes a halted CPU, with IME false (45_system.md R197). -/
def State.woken (s : State) : State :=
  if s.cpu.halted ∧ s.pending ≠ 0 then { s with cpu.halted := false } else s

/-- Step 3: an interrupt entry, the halting sentinel, or a fetched opcode. -/
def selectOpcode (s : State) : OpcodeId × State :=
  if s.dispatches then interruptEntry s
  else if s.woken.cpu.halted then (.halting, s.woken)
  else fetchOpcode s.woken

/-- Step 4, `publishTrace()`: the opcode of the cycle, and its record in the output trace (60_exceptions.md R212). -/
def publishTrace (op : OpcodeId) (s : State) : State :=
  { s with
    cpu.opcode := op
    out.trace :=
      { instrAddr := s.cpu.instrAddr, opcode := op, regs := s.regs, halted := s.cpu.halted, ime := s.cpu.ime } :: s.out.trace }

/-- How many operand bytes the first byte `b` asks for in step 5 (R74). STOP is refused before its second byte is read
(45_system.md R199, log 7); the second byte of a CB instruction is fetched in step 3. -/
def operandCount (b : Byte) : Nat := if b = 0x10 ∨ b = 0xCB then 0 else instrLength b - 1

/-- The operand fetch of step 5, before anything else that the instruction does (R74): the instruction, and the state with PC past
its bytes. -/
def fetchOperands (op : OpcodeId) (s : State) : Instr × State :=
  match op with
  | .byte b =>
    match operandCount b with
    | 0 => (decode3 b 0 0, s)
    | 1 => (decode3 b s.fetchVal 0, s.afterFetch)
    | _ => (decode3 b s.fetchVal s.afterFetch.fetchVal, s.afterFetch.afterFetch)
  | .cb b => (decodeCb b, s)
  | .halting => (.halting, s)
  | .interrupt k => (.interrupt k, s)
  | .intCancelled => (.intCancelled, s)

/-- A cycle up to the effect of its instruction: what it runs, and the state it runs it in. -/
def fetchInstr (s : State) : Instr × State :=
  let r := selectOpcode (beginCycle s)
  fetchOperands r.1 (publishTrace r.1 r.2)

/-- `cycle()` (R71). -/
def cycle (s : State) : Out := exec (fetchInstr s).1 (fetchInstr s).2

/-- `cpuStep()`, step 1 of every tick: wait, or run one whole cycle (70_reset_and_hazards.md R241). -/
def cpuStep (s : State) : Out :=
  if s.cpu.cpuWait > 0 then .next { s with cpu.cpuWait := s.cpu.cpuWait - 1 } else cycle s

/-! ### The other steps of a tick (R66) -/

/-- Steps 2 to 5 of a tick, in their order, and the tick count (20_memory.md R66). -/
def devices (s : State) : State :=
  let t := envStep (dmaTick (ppuStep (timerTick s)))
  { t with ticks := t.ticks + 1 }

/-- One tick of a machine that has not stopped: a stop in the CPU step ends the tick (R66). -/
def tick (s : State) : Out :=
  match cpuStep s with
  | .next t => .next (devices t)
  | .fault f => .fault f
  | .refused r => .refused r

/-! ### Stops (00_scope.md R14) -/

/-- The reason that a stopped machine has recorded; no later tick runs. -/
def State.stopped (s : State) : Option Out :=
  match s.cpu.fault, s.cpu.refused with
  | some f, _ => some (.fault f)
  | none, some r => some (.refused r)
  | none, none => none

/-- The machine that a tick leaves: the next state, or the state in which it stopped, with the reason recorded and PC past the opcode
fetch (R14, 45_system.md R199, R200, log 12). -/
def afterTick (s : State) : State :=
  match tick s with
  | .next t => t
  | .fault f => { (fetchInstr s).2 with cpu.fault := some f }
  | .refused r => { (fetchInstr s).2 with cpu.refused := some r }

end Sys2Proof.Machine
end

