-- ==== Sys2Proof/Machine/Construct.lean ====
section
/-! DEFINITION. Building the machine from its parameters (70_reset_and_hazards.md R239, R240; 00_scope.md R9), and placing an
instruction where the next cycle fetches it. -/

namespace Sys2Proof.Machine

/-! ### Construction (R239) -/

/-- The parameters of R9. `cart` is the controller in the state of its own reset, a controller record with its store hook included, and `none` for a controller
that is not supported; `ramInit` and `cartRamInit` list the power-on bytes that
differ from zero, by address and by offset. -/
structure BuildParams where
  bootRom : List Byte
  cartRom : List Byte
  cart : Option Controller
  ramInit : List (Word × Byte)
  cartRamInit : List (Nat × Byte)
  accessLock : Bool
  drawStartDelay : Fin 101
  env : EnvSource
deriving DecidableEq, Repr

/-- Choose among the expressions `g 0` to `g n` by the value of an expression; a greater value chooses `g n`. -/
def CartExpr.table (x : CartExpr) (g : Nat → CartExpr) : Nat → CartExpr
  | 0 => g 0
  | n + 1 => .ifLt x (.const (n + 1)) (table x g n) (g (n + 1))

/-- The controller record of R9 whose states are 0 to n, given by functions: its answers in a state, and its store hook. Every such controller is
plain data this way (log 20). -/
def CartRecord.ofFunctions (n : Nat) (answers : Nat → CartAnswers) (store : Nat → Word → Byte → Nat) : CartRecord :=
  let answer := fun f : CartAnswers → Nat => CartExpr.table .state (fun st => .const (f (answers st))) n
  { romBankA := answer (·.romBankA)
    romBankB := answer (·.romBankB)
    sramBank := answer (·.sramBank)
    ramPresent := answer (·.ramPresent.toNat)
    ramEnabled := answer (·.ramEnabled.toNat)
    store :=
      CartExpr.table .state (fun st =>
        CartExpr.table .addr (fun a =>
          CartExpr.table .value (fun v => .const (store st (BitVec.ofNat 16 a) (BitVec.ofNat 8 v))) 255) 32767) n }

/-- The block's own RAM with the power-on bytes of `RAM_INIT`. -/
def initRam : List (Word × Byte) → Memory
  | [] => []
  | (a, v) :: rest =>
    match ramKey a with
    | some k => Memory.write (Config.unlisted .ram) (initRam rest) k v
    | none => initRam rest

/-- The cartridge RAM with its power-on bytes. -/
def initCartRam : List (Nat × Byte) → Memory
  | [] => []
  | (o, v) :: rest => Memory.write (Config.unlisted .cartRam) (initCartRam rest) o v

/-- The reset state of a machine built from these parameters (R240). -/
def BuildParams.state (p : BuildParams) (c : Controller) : State :=
  { State.reset with
    bus :=
      { bootOverlay := true
        ram := initRam p.ramInit
        bootRom := Memory.ofBytes (Config.unlisted .bootRom) 0 p.bootRom
        cartRom := Memory.ofBytes (Config.unlisted .cartRom) 0 p.cartRom
        cartRomLen := p.cartRom.length
        cartRam := initCartRam p.cartRamInit }
    cart := c
    env := { source := p.env, draws := 0 }
    params := { accessLock := p.accessLock, drawStartDelay := p.drawStartDelay } }

/-- Construction: the reset state, or the refusal of one of the three cases, with no tick run (R239). -/
def construct (p : BuildParams) : Out :=
  if p.bootRom.length = 0 ∨ p.bootRom.length > 256 then .refused (.badBootRom p.bootRom.length)
  else if p.cartRom.length < 32768 ∨ p.cartRom.length % 16384 ≠ 0 then .refused (.badCartRom p.cartRom.length)
  else
    match p.cart with
    | none => .refused .unsupportedController
    | some c => .next (p.state c)

/-! ### Placing an instruction at PC (log 17) -/

/-- The stored byte that a fetch from an address reads, where that is a plain byte of an image or of work or high RAM. -/
def State.plainCell (s : State) (addr : Word) : Option (Buffer × Nat) :=
  match busDecode addr s.bus.bootOverlay with
  | (.boot, o) => some (.bootRom, o)
  | (.romA, o) => some (.cartRom, (s.cart.answers.romBankA * 16384 + o) % s.bus.cartRomLen)
  | (.romB, o) => some (.cartRom, (s.cart.answers.romBankB * 16384 + o) % s.bus.cartRomLen)
  | (.wram0, o) => some (.ram, 0xC000 + o)
  | (.wram1, o) => some (.ram, 0xD000 + o)
  | (.hram, o) => some (.ram, 0xFF80 + o)
  | _ => none

/-- Write one stored byte of a buffer, images included. -/
def State.setCell (s : State) (cell : Buffer × Nat) (v : Byte) : State :=
  match cell with
  | (.ram, k) => { s with bus.ram := Memory.write (Config.unlisted .ram) s.bus.ram k v }
  | (.bootRom, k) => { s with bus.bootRom := Memory.write (Config.unlisted .bootRom) s.bus.bootRom k v }
  | (.cartRom, k) => { s with bus.cartRom := Memory.write (Config.unlisted .cartRom) s.bus.cartRom k v }
  | (.cartRam, k) => { s with bus.cartRam := Memory.write (Config.unlisted .cartRam) s.bus.cartRam k v }

/-- Write the stored byte behind an address, where it is plain. -/
def State.placeByte (s : State) (addr : Word) (v : Byte) : State :=
  match s.plainCell addr with
  | some cell => s.setCell cell v
  | none => s

/-- The next tick runs a cycle that fetches at PC: no wait, no halt, no halt bug, no stop, no interrupt to dispatch. -/
def State.readyToFetch (s : State) : State :=
  { s with
    cpu := { s.cpu with cpuWait := 0, halted := false, haltBug := false, fault := none, refused := none }
    irq.ifl := if (resolveEi s).dispatches then 0 else s.irq.ifl }

/-- PC, where three plain bytes stand at it; otherwise the first byte of work RAM. -/
def State.fetchablePc (s : State) : Word :=
  if (s.plainCell s.regs.pc).isSome ∧ (s.plainCell (s.regs.pc + 1)).isSome ∧ (s.plainCell (s.regs.pc + 2)).isSome then s.regs.pc
  else 0xC000

/-- Place three bytes at PC. -/
def State.placeInstr (s : State) (b0 b1 b2 : Byte) : State :=
  let s1 := s.readyToFetch.setPc s.fetchablePc
  ((s1.placeByte s1.regs.pc b0).placeByte (s1.regs.pc + 1) b1).placeByte (s1.regs.pc + 2) b2

end Sys2Proof.Machine
end

