-- ==== Sys2Proof/Machine/Step.lean ====
section
/-! DEFINITION. One step of the machine, which is one tick (20_memory.md R66, log 6), and the placement of a table word where the
next step fetches. -/

namespace Sys2Proof.Machine

/-- One tick. A machine that has stopped answers the reason it recorded (00_scope.md R14, 70_reset_and_hazards.md R242). -/
def step (s : State) : Host.Outcome State Fault Refusal :=
  match s.stopped with
  | some r => r
  | none => tick s

/-- The state with a table word's bytes where the next step fetches, zeros after them up to three bytes (log 8, log 17). -/
def State.withFetchWord (s : State) (nbits w : Nat) : State :=
  let bs := tableBytes nbits w
  s.placeInstr (bs.getD 0 0) (bs.getD 1 0) (bs.getD 2 0)

end Sys2Proof.Machine
end

