-- ==== Sys2Proof/Safety.lean ====
section
/-! DEFINITION. The terms that statements about the machine are made of: what the spec's instruction rules say an instruction writes
(read from the rules and the table, apart from the meanings), and the invariants of a run. -/

namespace Sys2Proof

/-! ### What the rules say an instruction writes -/

/-- An entry of a rule's line `Flags: Z N H C` (00_scope.md R16): `-`, `0`, `1`, or an expression. -/
inductive FlagEffect where
  | keep
  | zero
  | one
  | write
deriving DecidableEq, Repr

/-- A flag before and after an instruction agrees with the entry. -/
def FlagEffect.agrees (e : FlagEffect) (before after : Bool) : Prop :=
  match e with
  | .keep => after = before
  | .zero => after = false
  | .one => after = true
  | .write => True

/-- The four entries of a rule's line of flags. -/
structure FlagEffects where
  z : FlagEffect
  n : FlagEffect
  h : FlagEffect
  c : FlagEffect
deriving DecidableEq, Repr

/-- The line `Flags:` of every instruction's rule, in the order Z N H C (R87 to R200, R206, R207). The bare prefix selects one of the CB
instructions, so any flag may be written. -/
def Instr.flagEffects : Instr → FlagEffects
  | .nop => ⟨.keep, .keep, .keep, .keep⟩
  | .ldBcN16 _ => ⟨.keep, .keep, .keep, .keep⟩
  | .ldAtBcA => ⟨.keep, .keep, .keep, .keep⟩
  | .incBc => ⟨.keep, .keep, .keep, .keep⟩
  | .incB => ⟨.write, .zero, .write, .keep⟩
  | .decB => ⟨.write, .one, .write, .keep⟩
  | .ldBN8 _ => ⟨.keep, .keep, .keep, .keep⟩
  | .rlca => ⟨.zero, .zero, .zero, .write⟩
  | .ldAtA16Sp _ => ⟨.keep, .keep, .keep, .keep⟩
  | .addHlBc => ⟨.keep, .zero, .write, .write⟩
  | .ldAAtBc => ⟨.keep, .keep, .keep, .keep⟩
  | .decBc => ⟨.keep, .keep, .keep, .keep⟩
  | .incC => ⟨.write, .zero, .write, .keep⟩
  | .decC => ⟨.write, .one, .write, .keep⟩
  | .ldCN8 _ => ⟨.keep, .keep, .keep, .keep⟩
  | .rrca => ⟨.zero, .zero, .zero, .write⟩
  | .stop _ => ⟨.keep, .keep, .keep, .keep⟩
  | .ldDeN16 _ => ⟨.keep, .keep, .keep, .keep⟩
  | .ldAtDeA => ⟨.keep, .keep, .keep, .keep⟩
  | .incDe => ⟨.keep, .keep, .keep, .keep⟩
  | .incD => ⟨.write, .zero, .write, .keep⟩
  | .decD => ⟨.write, .one, .write, .keep⟩
  | .ldDN8 _ => ⟨.keep, .keep, .keep, .keep⟩
  | .rla => ⟨.zero, .zero, .zero, .write⟩
  | .jrE8 _ => ⟨.keep, .keep, .keep, .keep⟩
  | .addHlDe => ⟨.keep, .zero, .write, .write⟩
  | .ldAAtDe => ⟨.keep, .keep, .keep, .keep⟩
  | .decDe => ⟨.keep, .keep, .keep, .keep⟩
  | .incE => ⟨.write, .zero, .write, .keep⟩
  | .decE => ⟨.write, .one, .write, .keep⟩
  | .ldEN8 _ => ⟨.keep, .keep, .keep, .keep⟩
  | .rra => ⟨.zero, .zero, .zero, .write⟩
  | .jrNzE8 _ => ⟨.keep, .keep, .keep, .keep⟩
  | .ldHlN16 _ => ⟨.keep, .keep, .keep, .keep⟩
  | .ldAtHlIncA => ⟨.keep, .keep, .keep, .keep⟩
  | .incHl => ⟨.keep, .keep, .keep, .keep⟩
  | .incH => ⟨.write, .zero, .write, .keep⟩
  | .decH => ⟨.write, .one, .write, .keep⟩
  | .ldHN8 _ => ⟨.keep, .keep, .keep, .keep⟩
  | .daa => ⟨.write, .keep, .zero, .write⟩
  | .jrZE8 _ => ⟨.keep, .keep, .keep, .keep⟩
  | .addHlHl => ⟨.keep, .zero, .write, .write⟩
  | .ldAAtHlInc => ⟨.keep, .keep, .keep, .keep⟩
  | .decHl => ⟨.keep, .keep, .keep, .keep⟩
  | .incL => ⟨.write, .zero, .write, .keep⟩
  | .decL => ⟨.write, .one, .write, .keep⟩
  | .ldLN8 _ => ⟨.keep, .keep, .keep, .keep⟩
  | .cpl => ⟨.keep, .one, .one, .keep⟩
  | .jrNcE8 _ => ⟨.keep, .keep, .keep, .keep⟩
  | .ldSpN16 _ => ⟨.keep, .keep, .keep, .keep⟩
  | .ldAtHlDecA => ⟨.keep, .keep, .keep, .keep⟩
  | .incSp => ⟨.keep, .keep, .keep, .keep⟩
  | .incAtHl => ⟨.write, .zero, .write, .keep⟩
  | .decAtHl => ⟨.write, .one, .write, .keep⟩
  | .ldAtHlN8 _ => ⟨.keep, .keep, .keep, .keep⟩
  | .scf => ⟨.keep, .zero, .zero, .one⟩
  | .jrCE8 _ => ⟨.keep, .keep, .keep, .keep⟩
  | .addHlSp => ⟨.keep, .zero, .write, .write⟩
  | .ldAAtHlDec => ⟨.keep, .keep, .keep, .keep⟩
  | .decSp => ⟨.keep, .keep, .keep, .keep⟩
  | .incA => ⟨.write, .zero, .write, .keep⟩
  | .decA => ⟨.write, .one, .write, .keep⟩
  | .ldAN8 _ => ⟨.keep, .keep, .keep, .keep⟩
  | .ccf => ⟨.keep, .zero, .zero, .write⟩
  | .ldBB => ⟨.keep, .keep, .keep, .keep⟩
  | .ldBC => ⟨.keep, .keep, .keep, .keep⟩
  | .ldBD => ⟨.keep, .keep, .keep, .keep⟩
  | .ldBE => ⟨.keep, .keep, .keep, .keep⟩
  | .ldBH => ⟨.keep, .keep, .keep, .keep⟩
  | .ldBL => ⟨.keep, .keep, .keep, .keep⟩
  | .ldBAtHl => ⟨.keep, .keep, .keep, .keep⟩
  | .ldBA => ⟨.keep, .keep, .keep, .keep⟩
  | .ldCB => ⟨.keep, .keep, .keep, .keep⟩
  | .ldCC => ⟨.keep, .keep, .keep, .keep⟩
  | .ldCD => ⟨.keep, .keep, .keep, .keep⟩
  | .ldCE => ⟨.keep, .keep, .keep, .keep⟩
  | .ldCH => ⟨.keep, .keep, .keep, .keep⟩
  | .ldCL => ⟨.keep, .keep, .keep, .keep⟩
  | .ldCAtHl => ⟨.keep, .keep, .keep, .keep⟩
  | .ldCA => ⟨.keep, .keep, .keep, .keep⟩
  | .ldDB => ⟨.keep, .keep, .keep, .keep⟩
  | .ldDC => ⟨.keep, .keep, .keep, .keep⟩
  | .ldDD => ⟨.keep, .keep, .keep, .keep⟩
  | .ldDE => ⟨.keep, .keep, .keep, .keep⟩
  | .ldDH => ⟨.keep, .keep, .keep, .keep⟩
  | .ldDL => ⟨.keep, .keep, .keep, .keep⟩
  | .ldDAtHl => ⟨.keep, .keep, .keep, .keep⟩
  | .ldDA => ⟨.keep, .keep, .keep, .keep⟩
  | .ldEB => ⟨.keep, .keep, .keep, .keep⟩
  | .ldEC => ⟨.keep, .keep, .keep, .keep⟩
  | .ldED => ⟨.keep, .keep, .keep, .keep⟩
  | .ldEE => ⟨.keep, .keep, .keep, .keep⟩
  | .ldEH => ⟨.keep, .keep, .keep, .keep⟩
  | .ldEL => ⟨.keep, .keep, .keep, .keep⟩
  | .ldEAtHl => ⟨.keep, .keep, .keep, .keep⟩
  | .ldEA => ⟨.keep, .keep, .keep, .keep⟩
  | .ldHB => ⟨.keep, .keep, .keep, .keep⟩
  | .ldHC => ⟨.keep, .keep, .keep, .keep⟩
  | .ldHD => ⟨.keep, .keep, .keep, .keep⟩
  | .ldHE => ⟨.keep, .keep, .keep, .keep⟩
  | .ldHH => ⟨.keep, .keep, .keep, .keep⟩
  | .ldHL => ⟨.keep, .keep, .keep, .keep⟩
  | .ldHAtHl => ⟨.keep, .keep, .keep, .keep⟩
  | .ldHA => ⟨.keep, .keep, .keep, .keep⟩
  | .ldLB => ⟨.keep, .keep, .keep, .keep⟩
  | .ldLC => ⟨.keep, .keep, .keep, .keep⟩
  | .ldLD => ⟨.keep, .keep, .keep, .keep⟩
  | .ldLE => ⟨.keep, .keep, .keep, .keep⟩
  | .ldLH => ⟨.keep, .keep, .keep, .keep⟩
  | .ldLL => ⟨.keep, .keep, .keep, .keep⟩
  | .ldLAtHl => ⟨.keep, .keep, .keep, .keep⟩
  | .ldLA => ⟨.keep, .keep, .keep, .keep⟩
  | .ldAtHlB => ⟨.keep, .keep, .keep, .keep⟩
  | .ldAtHlC => ⟨.keep, .keep, .keep, .keep⟩
  | .ldAtHlD => ⟨.keep, .keep, .keep, .keep⟩
  | .ldAtHlE => ⟨.keep, .keep, .keep, .keep⟩
  | .ldAtHlH => ⟨.keep, .keep, .keep, .keep⟩
  | .ldAtHlL => ⟨.keep, .keep, .keep, .keep⟩
  | .halt => ⟨.keep, .keep, .keep, .keep⟩
  | .ldAtHlA => ⟨.keep, .keep, .keep, .keep⟩
  | .ldAB => ⟨.keep, .keep, .keep, .keep⟩
  | .ldAC => ⟨.keep, .keep, .keep, .keep⟩
  | .ldAD => ⟨.keep, .keep, .keep, .keep⟩
  | .ldAE => ⟨.keep, .keep, .keep, .keep⟩
  | .ldAH => ⟨.keep, .keep, .keep, .keep⟩
  | .ldAL => ⟨.keep, .keep, .keep, .keep⟩
  | .ldAAtHl => ⟨.keep, .keep, .keep, .keep⟩
  | .ldAA => ⟨.keep, .keep, .keep, .keep⟩
  | .addAB => ⟨.write, .zero, .write, .write⟩
  | .addAC => ⟨.write, .zero, .write, .write⟩
  | .addAD => ⟨.write, .zero, .write, .write⟩
  | .addAE => ⟨.write, .zero, .write, .write⟩
  | .addAH => ⟨.write, .zero, .write, .write⟩
  | .addAL => ⟨.write, .zero, .write, .write⟩
  | .addAAtHl => ⟨.write, .zero, .write, .write⟩
  | .addAA => ⟨.write, .zero, .write, .write⟩
  | .adcAB => ⟨.write, .zero, .write, .write⟩
  | .adcAC => ⟨.write, .zero, .write, .write⟩
  | .adcAD => ⟨.write, .zero, .write, .write⟩
  | .adcAE => ⟨.write, .zero, .write, .write⟩
  | .adcAH => ⟨.write, .zero, .write, .write⟩
  | .adcAL => ⟨.write, .zero, .write, .write⟩
  | .adcAAtHl => ⟨.write, .zero, .write, .write⟩
  | .adcAA => ⟨.write, .zero, .write, .write⟩
  | .subAB => ⟨.write, .one, .write, .write⟩
  | .subAC => ⟨.write, .one, .write, .write⟩
  | .subAD => ⟨.write, .one, .write, .write⟩
  | .subAE => ⟨.write, .one, .write, .write⟩
  | .subAH => ⟨.write, .one, .write, .write⟩
  | .subAL => ⟨.write, .one, .write, .write⟩
  | .subAAtHl => ⟨.write, .one, .write, .write⟩
  | .subAA => ⟨.write, .one, .write, .write⟩
  | .sbcAB => ⟨.write, .one, .write, .write⟩
  | .sbcAC => ⟨.write, .one, .write, .write⟩
  | .sbcAD => ⟨.write, .one, .write, .write⟩
  | .sbcAE => ⟨.write, .one, .write, .write⟩
  | .sbcAH => ⟨.write, .one, .write, .write⟩
  | .sbcAL => ⟨.write, .one, .write, .write⟩
  | .sbcAAtHl => ⟨.write, .one, .write, .write⟩
  | .sbcAA => ⟨.write, .one, .write, .write⟩
  | .andAB => ⟨.write, .zero, .one, .zero⟩
  | .andAC => ⟨.write, .zero, .one, .zero⟩
  | .andAD => ⟨.write, .zero, .one, .zero⟩
  | .andAE => ⟨.write, .zero, .one, .zero⟩
  | .andAH => ⟨.write, .zero, .one, .zero⟩
  | .andAL => ⟨.write, .zero, .one, .zero⟩
  | .andAAtHl => ⟨.write, .zero, .one, .zero⟩
  | .andAA => ⟨.write, .zero, .one, .zero⟩
  | .xorAB => ⟨.write, .zero, .zero, .zero⟩
  | .xorAC => ⟨.write, .zero, .zero, .zero⟩
  | .xorAD => ⟨.write, .zero, .zero, .zero⟩
  | .xorAE => ⟨.write, .zero, .zero, .zero⟩
  | .xorAH => ⟨.write, .zero, .zero, .zero⟩
  | .xorAL => ⟨.write, .zero, .zero, .zero⟩
  | .xorAAtHl => ⟨.write, .zero, .zero, .zero⟩
  | .xorAA => ⟨.write, .zero, .zero, .zero⟩
  | .orAB => ⟨.write, .zero, .zero, .zero⟩
  | .orAC => ⟨.write, .zero, .zero, .zero⟩
  | .orAD => ⟨.write, .zero, .zero, .zero⟩
  | .orAE => ⟨.write, .zero, .zero, .zero⟩
  | .orAH => ⟨.write, .zero, .zero, .zero⟩
  | .orAL => ⟨.write, .zero, .zero, .zero⟩
  | .orAAtHl => ⟨.write, .zero, .zero, .zero⟩
  | .orAA => ⟨.write, .zero, .zero, .zero⟩
  | .cpAB => ⟨.write, .one, .write, .write⟩
  | .cpAC => ⟨.write, .one, .write, .write⟩
  | .cpAD => ⟨.write, .one, .write, .write⟩
  | .cpAE => ⟨.write, .one, .write, .write⟩
  | .cpAH => ⟨.write, .one, .write, .write⟩
  | .cpAL => ⟨.write, .one, .write, .write⟩
  | .cpAAtHl => ⟨.write, .one, .write, .write⟩
  | .cpAA => ⟨.write, .one, .write, .write⟩
  | .retNz => ⟨.keep, .keep, .keep, .keep⟩
  | .popBc => ⟨.keep, .keep, .keep, .keep⟩
  | .jpNzA16 _ => ⟨.keep, .keep, .keep, .keep⟩
  | .jpA16 _ => ⟨.keep, .keep, .keep, .keep⟩
  | .callNzA16 _ => ⟨.keep, .keep, .keep, .keep⟩
  | .pushBc => ⟨.keep, .keep, .keep, .keep⟩
  | .addAN8 _ => ⟨.write, .zero, .write, .write⟩
  | .rst00 => ⟨.keep, .keep, .keep, .keep⟩
  | .retZ => ⟨.keep, .keep, .keep, .keep⟩
  | .ret => ⟨.keep, .keep, .keep, .keep⟩
  | .jpZA16 _ => ⟨.keep, .keep, .keep, .keep⟩
  | .callZA16 _ => ⟨.keep, .keep, .keep, .keep⟩
  | .callA16 _ => ⟨.keep, .keep, .keep, .keep⟩
  | .adcAN8 _ => ⟨.write, .zero, .write, .write⟩
  | .rst08 => ⟨.keep, .keep, .keep, .keep⟩
  | .retNc => ⟨.keep, .keep, .keep, .keep⟩
  | .popDe => ⟨.keep, .keep, .keep, .keep⟩
  | .jpNcA16 _ => ⟨.keep, .keep, .keep, .keep⟩
  | .illegalD3 => ⟨.keep, .keep, .keep, .keep⟩
  | .callNcA16 _ => ⟨.keep, .keep, .keep, .keep⟩
  | .pushDe => ⟨.keep, .keep, .keep, .keep⟩
  | .subAN8 _ => ⟨.write, .one, .write, .write⟩
  | .rst10 => ⟨.keep, .keep, .keep, .keep⟩
  | .retC => ⟨.keep, .keep, .keep, .keep⟩
  | .reti => ⟨.keep, .keep, .keep, .keep⟩
  | .jpCA16 _ => ⟨.keep, .keep, .keep, .keep⟩
  | .illegalDB => ⟨.keep, .keep, .keep, .keep⟩
  | .callCA16 _ => ⟨.keep, .keep, .keep, .keep⟩
  | .illegalDD => ⟨.keep, .keep, .keep, .keep⟩
  | .sbcAN8 _ => ⟨.write, .one, .write, .write⟩
  | .rst18 => ⟨.keep, .keep, .keep, .keep⟩
  | .ldhAtA8A _ => ⟨.keep, .keep, .keep, .keep⟩
  | .popHl => ⟨.keep, .keep, .keep, .keep⟩
  | .ldAtCA => ⟨.keep, .keep, .keep, .keep⟩
  | .illegalE3 => ⟨.keep, .keep, .keep, .keep⟩
  | .illegalE4 => ⟨.keep, .keep, .keep, .keep⟩
  | .pushHl => ⟨.keep, .keep, .keep, .keep⟩
  | .andAN8 _ => ⟨.write, .zero, .one, .zero⟩
  | .rst20 => ⟨.keep, .keep, .keep, .keep⟩
  | .addSpE8 _ => ⟨.zero, .zero, .write, .write⟩
  | .jpHl => ⟨.keep, .keep, .keep, .keep⟩
  | .ldAtA16A _ => ⟨.keep, .keep, .keep, .keep⟩
  | .illegalEB => ⟨.keep, .keep, .keep, .keep⟩
  | .illegalEC => ⟨.keep, .keep, .keep, .keep⟩
  | .illegalED => ⟨.keep, .keep, .keep, .keep⟩
  | .xorAN8 _ => ⟨.write, .zero, .zero, .zero⟩
  | .rst28 => ⟨.keep, .keep, .keep, .keep⟩
  | .ldhAAtA8 _ => ⟨.keep, .keep, .keep, .keep⟩
  | .popAf => ⟨.write, .write, .write, .write⟩
  | .ldAAtC => ⟨.keep, .keep, .keep, .keep⟩
  | .di => ⟨.keep, .keep, .keep, .keep⟩
  | .illegalF4 => ⟨.keep, .keep, .keep, .keep⟩
  | .pushAf => ⟨.keep, .keep, .keep, .keep⟩
  | .orAN8 _ => ⟨.write, .zero, .zero, .zero⟩
  | .rst30 => ⟨.keep, .keep, .keep, .keep⟩
  | .ldHlSpE8 _ => ⟨.zero, .zero, .write, .write⟩
  | .ldSpHl => ⟨.keep, .keep, .keep, .keep⟩
  | .ldAAtA16 _ => ⟨.keep, .keep, .keep, .keep⟩
  | .ei => ⟨.keep, .keep, .keep, .keep⟩
  | .illegalFC => ⟨.keep, .keep, .keep, .keep⟩
  | .illegalFD => ⟨.keep, .keep, .keep, .keep⟩
  | .cpAN8 _ => ⟨.write, .one, .write, .write⟩
  | .rst38 => ⟨.keep, .keep, .keep, .keep⟩
  | .prefixCb => ⟨.write, .write, .write, .write⟩
  | .rlcR _ => ⟨.write, .zero, .zero, .write⟩
  | .rlcAtHl => ⟨.write, .zero, .zero, .write⟩
  | .rrcR _ => ⟨.write, .zero, .zero, .write⟩
  | .rrcAtHl => ⟨.write, .zero, .zero, .write⟩
  | .rlR _ => ⟨.write, .zero, .zero, .write⟩
  | .rlAtHl => ⟨.write, .zero, .zero, .write⟩
  | .rrR _ => ⟨.write, .zero, .zero, .write⟩
  | .rrAtHl => ⟨.write, .zero, .zero, .write⟩
  | .slaR _ => ⟨.write, .zero, .zero, .write⟩
  | .slaAtHl => ⟨.write, .zero, .zero, .write⟩
  | .sraR _ => ⟨.write, .zero, .zero, .write⟩
  | .sraAtHl => ⟨.write, .zero, .zero, .write⟩
  | .swapR _ => ⟨.write, .zero, .zero, .zero⟩
  | .swapAtHl => ⟨.write, .zero, .zero, .zero⟩
  | .srlR _ => ⟨.write, .zero, .zero, .write⟩
  | .srlAtHl => ⟨.write, .zero, .zero, .write⟩
  | .bitBR _ _ => ⟨.write, .zero, .one, .keep⟩
  | .bitBAtHl _ => ⟨.write, .zero, .one, .keep⟩
  | .resBR _ _ => ⟨.keep, .keep, .keep, .keep⟩
  | .resBAtHl _ => ⟨.keep, .keep, .keep, .keep⟩
  | .setBR _ _ => ⟨.keep, .keep, .keep, .keep⟩
  | .setBAtHl _ => ⟨.keep, .keep, .keep, .keep⟩
  | .halting => ⟨.keep, .keep, .keep, .keep⟩
  | .interrupt _ => ⟨.keep, .keep, .keep, .keep⟩
  | .intCancelled => ⟨.keep, .keep, .keep, .keep⟩

/-- The 8-bit registers an instruction writes, A of AF among them; the halves of a pair each count. -/
def Instr.destRegs : Instr → List Reg8
  | .nop => []
  | .ldBcN16 _ => [.b, .c]
  | .ldAtBcA => []
  | .incBc => [.b, .c]
  | .incB => [.b]
  | .decB => [.b]
  | .ldBN8 _ => [.b]
  | .rlca => [.a]
  | .ldAtA16Sp _ => []
  | .addHlBc => [.h, .l]
  | .ldAAtBc => [.a]
  | .decBc => [.b, .c]
  | .incC => [.c]
  | .decC => [.c]
  | .ldCN8 _ => [.c]
  | .rrca => [.a]
  | .stop _ => []
  | .ldDeN16 _ => [.d, .e]
  | .ldAtDeA => []
  | .incDe => [.d, .e]
  | .incD => [.d]
  | .decD => [.d]
  | .ldDN8 _ => [.d]
  | .rla => [.a]
  | .jrE8 _ => []
  | .addHlDe => [.h, .l]
  | .ldAAtDe => [.a]
  | .decDe => [.d, .e]
  | .incE => [.e]
  | .decE => [.e]
  | .ldEN8 _ => [.e]
  | .rra => [.a]
  | .jrNzE8 _ => []
  | .ldHlN16 _ => [.h, .l]
  | .ldAtHlIncA => [.h, .l]
  | .incHl => [.h, .l]
  | .incH => [.h]
  | .decH => [.h]
  | .ldHN8 _ => [.h]
  | .daa => [.a]
  | .jrZE8 _ => []
  | .addHlHl => [.h, .l]
  | .ldAAtHlInc => [.a, .h, .l]
  | .decHl => [.h, .l]
  | .incL => [.l]
  | .decL => [.l]
  | .ldLN8 _ => [.l]
  | .cpl => [.a]
  | .jrNcE8 _ => []
  | .ldSpN16 _ => []
  | .ldAtHlDecA => [.h, .l]
  | .incSp => []
  | .incAtHl => []
  | .decAtHl => []
  | .ldAtHlN8 _ => []
  | .scf => []
  | .jrCE8 _ => []
  | .addHlSp => [.h, .l]
  | .ldAAtHlDec => [.a, .h, .l]
  | .decSp => []
  | .incA => [.a]
  | .decA => [.a]
  | .ldAN8 _ => [.a]
  | .ccf => []
  | .ldBB => [.b]
  | .ldBC => [.b]
  | .ldBD => [.b]
  | .ldBE => [.b]
  | .ldBH => [.b]
  | .ldBL => [.b]
  | .ldBAtHl => [.b]
  | .ldBA => [.b]
  | .ldCB => [.c]
  | .ldCC => [.c]
  | .ldCD => [.c]
  | .ldCE => [.c]
  | .ldCH => [.c]
  | .ldCL => [.c]
  | .ldCAtHl => [.c]
  | .ldCA => [.c]
  | .ldDB => [.d]
  | .ldDC => [.d]
  | .ldDD => [.d]
  | .ldDE => [.d]
  | .ldDH => [.d]
  | .ldDL => [.d]
  | .ldDAtHl => [.d]
  | .ldDA => [.d]
  | .ldEB => [.e]
  | .ldEC => [.e]
  | .ldED => [.e]
  | .ldEE => [.e]
  | .ldEH => [.e]
  | .ldEL => [.e]
  | .ldEAtHl => [.e]
  | .ldEA => [.e]
  | .ldHB => [.h]
  | .ldHC => [.h]
  | .ldHD => [.h]
  | .ldHE => [.h]
  | .ldHH => [.h]
  | .ldHL => [.h]
  | .ldHAtHl => [.h]
  | .ldHA => [.h]
  | .ldLB => [.l]
  | .ldLC => [.l]
  | .ldLD => [.l]
  | .ldLE => [.l]
  | .ldLH => [.l]
  | .ldLL => [.l]
  | .ldLAtHl => [.l]
  | .ldLA => [.l]
  | .ldAtHlB => []
  | .ldAtHlC => []
  | .ldAtHlD => []
  | .ldAtHlE => []
  | .ldAtHlH => []
  | .ldAtHlL => []
  | .halt => []
  | .ldAtHlA => []
  | .ldAB => [.a]
  | .ldAC => [.a]
  | .ldAD => [.a]
  | .ldAE => [.a]
  | .ldAH => [.a]
  | .ldAL => [.a]
  | .ldAAtHl => [.a]
  | .ldAA => [.a]
  | .addAB => [.a]
  | .addAC => [.a]
  | .addAD => [.a]
  | .addAE => [.a]
  | .addAH => [.a]
  | .addAL => [.a]
  | .addAAtHl => [.a]
  | .addAA => [.a]
  | .adcAB => [.a]
  | .adcAC => [.a]
  | .adcAD => [.a]
  | .adcAE => [.a]
  | .adcAH => [.a]
  | .adcAL => [.a]
  | .adcAAtHl => [.a]
  | .adcAA => [.a]
  | .subAB => [.a]
  | .subAC => [.a]
  | .subAD => [.a]
  | .subAE => [.a]
  | .subAH => [.a]
  | .subAL => [.a]
  | .subAAtHl => [.a]
  | .subAA => [.a]
  | .sbcAB => [.a]
  | .sbcAC => [.a]
  | .sbcAD => [.a]
  | .sbcAE => [.a]
  | .sbcAH => [.a]
  | .sbcAL => [.a]
  | .sbcAAtHl => [.a]
  | .sbcAA => [.a]
  | .andAB => [.a]
  | .andAC => [.a]
  | .andAD => [.a]
  | .andAE => [.a]
  | .andAH => [.a]
  | .andAL => [.a]
  | .andAAtHl => [.a]
  | .andAA => [.a]
  | .xorAB => [.a]
  | .xorAC => [.a]
  | .xorAD => [.a]
  | .xorAE => [.a]
  | .xorAH => [.a]
  | .xorAL => [.a]
  | .xorAAtHl => [.a]
  | .xorAA => [.a]
  | .orAB => [.a]
  | .orAC => [.a]
  | .orAD => [.a]
  | .orAE => [.a]
  | .orAH => [.a]
  | .orAL => [.a]
  | .orAAtHl => [.a]
  | .orAA => [.a]
  | .cpAB => []
  | .cpAC => []
  | .cpAD => []
  | .cpAE => []
  | .cpAH => []
  | .cpAL => []
  | .cpAAtHl => []
  | .cpAA => []
  | .retNz => []
  | .popBc => [.b, .c]
  | .jpNzA16 _ => []
  | .jpA16 _ => []
  | .callNzA16 _ => []
  | .pushBc => []
  | .addAN8 _ => [.a]
  | .rst00 => []
  | .retZ => []
  | .ret => []
  | .jpZA16 _ => []
  | .callZA16 _ => []
  | .callA16 _ => []
  | .adcAN8 _ => [.a]
  | .rst08 => []
  | .retNc => []
  | .popDe => [.d, .e]
  | .jpNcA16 _ => []
  | .illegalD3 => []
  | .callNcA16 _ => []
  | .pushDe => []
  | .subAN8 _ => [.a]
  | .rst10 => []
  | .retC => []
  | .reti => []
  | .jpCA16 _ => []
  | .illegalDB => []
  | .callCA16 _ => []
  | .illegalDD => []
  | .sbcAN8 _ => [.a]
  | .rst18 => []
  | .ldhAtA8A _ => []
  | .popHl => [.h, .l]
  | .ldAtCA => []
  | .illegalE3 => []
  | .illegalE4 => []
  | .pushHl => []
  | .andAN8 _ => [.a]
  | .rst20 => []
  | .addSpE8 _ => []
  | .jpHl => []
  | .ldAtA16A _ => []
  | .illegalEB => []
  | .illegalEC => []
  | .illegalED => []
  | .xorAN8 _ => [.a]
  | .rst28 => []
  | .ldhAAtA8 _ => [.a]
  | .popAf => [.a]
  | .ldAAtC => [.a]
  | .di => []
  | .illegalF4 => []
  | .pushAf => []
  | .orAN8 _ => [.a]
  | .rst30 => []
  | .ldHlSpE8 _ => [.h, .l]
  | .ldSpHl => []
  | .ldAAtA16 _ => [.a]
  | .ei => []
  | .illegalFC => []
  | .illegalFD => []
  | .cpAN8 _ => []
  | .rst38 => []
  | .prefixCb => [.b, .c, .d, .e, .h, .l, .a]
  | .rlcR r => [r]
  | .rlcAtHl => []
  | .rrcR r => [r]
  | .rrcAtHl => []
  | .rlR r => [r]
  | .rlAtHl => []
  | .rrR r => [r]
  | .rrAtHl => []
  | .slaR r => [r]
  | .slaAtHl => []
  | .sraR r => [r]
  | .sraAtHl => []
  | .swapR r => [r]
  | .swapAtHl => []
  | .srlR r => [r]
  | .srlAtHl => []
  | .bitBR _ _ => []
  | .bitBAtHl _ => []
  | .resBR _ r => [r]
  | .resBAtHl _ => []
  | .setBR _ r => [r]
  | .setBAtHl _ => []
  | .halting => []
  | .interrupt _ => []
  | .intCancelled => []

/-- The instruction may change SP. -/
def Instr.movesSp : Instr → Bool
  | .nop => false
  | .ldBcN16 _ => false
  | .ldAtBcA => false
  | .incBc => false
  | .incB => false
  | .decB => false
  | .ldBN8 _ => false
  | .rlca => false
  | .ldAtA16Sp _ => false
  | .addHlBc => false
  | .ldAAtBc => false
  | .decBc => false
  | .incC => false
  | .decC => false
  | .ldCN8 _ => false
  | .rrca => false
  | .stop _ => false
  | .ldDeN16 _ => false
  | .ldAtDeA => false
  | .incDe => false
  | .incD => false
  | .decD => false
  | .ldDN8 _ => false
  | .rla => false
  | .jrE8 _ => false
  | .addHlDe => false
  | .ldAAtDe => false
  | .decDe => false
  | .incE => false
  | .decE => false
  | .ldEN8 _ => false
  | .rra => false
  | .jrNzE8 _ => false
  | .ldHlN16 _ => false
  | .ldAtHlIncA => false
  | .incHl => false
  | .incH => false
  | .decH => false
  | .ldHN8 _ => false
  | .daa => false
  | .jrZE8 _ => false
  | .addHlHl => false
  | .ldAAtHlInc => false
  | .decHl => false
  | .incL => false
  | .decL => false
  | .ldLN8 _ => false
  | .cpl => false
  | .jrNcE8 _ => false
  | .ldSpN16 _ => true
  | .ldAtHlDecA => false
  | .incSp => true
  | .incAtHl => false
  | .decAtHl => false
  | .ldAtHlN8 _ => false
  | .scf => false
  | .jrCE8 _ => false
  | .addHlSp => false
  | .ldAAtHlDec => false
  | .decSp => true
  | .incA => false
  | .decA => false
  | .ldAN8 _ => false
  | .ccf => false
  | .ldBB => false
  | .ldBC => false
  | .ldBD => false
  | .ldBE => false
  | .ldBH => false
  | .ldBL => false
  | .ldBAtHl => false
  | .ldBA => false
  | .ldCB => false
  | .ldCC => false
  | .ldCD => false
  | .ldCE => false
  | .ldCH => false
  | .ldCL => false
  | .ldCAtHl => false
  | .ldCA => false
  | .ldDB => false
  | .ldDC => false
  | .ldDD => false
  | .ldDE => false
  | .ldDH => false
  | .ldDL => false
  | .ldDAtHl => false
  | .ldDA => false
  | .ldEB => false
  | .ldEC => false
  | .ldED => false
  | .ldEE => false
  | .ldEH => false
  | .ldEL => false
  | .ldEAtHl => false
  | .ldEA => false
  | .ldHB => false
  | .ldHC => false
  | .ldHD => false
  | .ldHE => false
  | .ldHH => false
  | .ldHL => false
  | .ldHAtHl => false
  | .ldHA => false
  | .ldLB => false
  | .ldLC => false
  | .ldLD => false
  | .ldLE => false
  | .ldLH => false
  | .ldLL => false
  | .ldLAtHl => false
  | .ldLA => false
  | .ldAtHlB => false
  | .ldAtHlC => false
  | .ldAtHlD => false
  | .ldAtHlE => false
  | .ldAtHlH => false
  | .ldAtHlL => false
  | .halt => false
  | .ldAtHlA => false
  | .ldAB => false
  | .ldAC => false
  | .ldAD => false
  | .ldAE => false
  | .ldAH => false
  | .ldAL => false
  | .ldAAtHl => false
  | .ldAA => false
  | .addAB => false
  | .addAC => false
  | .addAD => false
  | .addAE => false
  | .addAH => false
  | .addAL => false
  | .addAAtHl => false
  | .addAA => false
  | .adcAB => false
  | .adcAC => false
  | .adcAD => false
  | .adcAE => false
  | .adcAH => false
  | .adcAL => false
  | .adcAAtHl => false
  | .adcAA => false
  | .subAB => false
  | .subAC => false
  | .subAD => false
  | .subAE => false
  | .subAH => false
  | .subAL => false
  | .subAAtHl => false
  | .subAA => false
  | .sbcAB => false
  | .sbcAC => false
  | .sbcAD => false
  | .sbcAE => false
  | .sbcAH => false
  | .sbcAL => false
  | .sbcAAtHl => false
  | .sbcAA => false
  | .andAB => false
  | .andAC => false
  | .andAD => false
  | .andAE => false
  | .andAH => false
  | .andAL => false
  | .andAAtHl => false
  | .andAA => false
  | .xorAB => false
  | .xorAC => false
  | .xorAD => false
  | .xorAE => false
  | .xorAH => false
  | .xorAL => false
  | .xorAAtHl => false
  | .xorAA => false
  | .orAB => false
  | .orAC => false
  | .orAD => false
  | .orAE => false
  | .orAH => false
  | .orAL => false
  | .orAAtHl => false
  | .orAA => false
  | .cpAB => false
  | .cpAC => false
  | .cpAD => false
  | .cpAE => false
  | .cpAH => false
  | .cpAL => false
  | .cpAAtHl => false
  | .cpAA => false
  | .retNz => true
  | .popBc => true
  | .jpNzA16 _ => false
  | .jpA16 _ => false
  | .callNzA16 _ => true
  | .pushBc => true
  | .addAN8 _ => false
  | .rst00 => true
  | .retZ => true
  | .ret => true
  | .jpZA16 _ => false
  | .callZA16 _ => true
  | .callA16 _ => true
  | .adcAN8 _ => false
  | .rst08 => true
  | .retNc => true
  | .popDe => true
  | .jpNcA16 _ => false
  | .illegalD3 => false
  | .callNcA16 _ => true
  | .pushDe => true
  | .subAN8 _ => false
  | .rst10 => true
  | .retC => true
  | .reti => true
  | .jpCA16 _ => false
  | .illegalDB => false
  | .callCA16 _ => true
  | .illegalDD => false
  | .sbcAN8 _ => false
  | .rst18 => true
  | .ldhAtA8A _ => false
  | .popHl => true
  | .ldAtCA => false
  | .illegalE3 => false
  | .illegalE4 => false
  | .pushHl => true
  | .andAN8 _ => false
  | .rst20 => true
  | .addSpE8 _ => true
  | .jpHl => false
  | .ldAtA16A _ => false
  | .illegalEB => false
  | .illegalEC => false
  | .illegalED => false
  | .xorAN8 _ => false
  | .rst28 => true
  | .ldhAAtA8 _ => false
  | .popAf => true
  | .ldAAtC => false
  | .di => false
  | .illegalF4 => false
  | .pushAf => true
  | .orAN8 _ => false
  | .rst30 => true
  | .ldHlSpE8 _ => false
  | .ldSpHl => true
  | .ldAAtA16 _ => false
  | .ei => false
  | .illegalFC => false
  | .illegalFD => false
  | .cpAN8 _ => false
  | .rst38 => true
  | .prefixCb => false
  | .rlcR _ => false
  | .rlcAtHl => false
  | .rrcR _ => false
  | .rrcAtHl => false
  | .rlR _ => false
  | .rlAtHl => false
  | .rrR _ => false
  | .rrAtHl => false
  | .slaR _ => false
  | .slaAtHl => false
  | .sraR _ => false
  | .sraAtHl => false
  | .swapR _ => false
  | .swapAtHl => false
  | .srlR _ => false
  | .srlAtHl => false
  | .bitBR _ _ => false
  | .bitBAtHl _ => false
  | .resBR _ _ => false
  | .resBAtHl _ => false
  | .setBR _ _ => false
  | .setBAtHl _ => false
  | .halting => false
  | .interrupt _ => false
  | .intCancelled => false

/-- The instruction may change PC once its own bytes are fetched. -/
def Instr.movesPc : Instr → Bool
  | .nop => false
  | .ldBcN16 _ => false
  | .ldAtBcA => false
  | .incBc => false
  | .incB => false
  | .decB => false
  | .ldBN8 _ => false
  | .rlca => false
  | .ldAtA16Sp _ => false
  | .addHlBc => false
  | .ldAAtBc => false
  | .decBc => false
  | .incC => false
  | .decC => false
  | .ldCN8 _ => false
  | .rrca => false
  | .stop _ => false
  | .ldDeN16 _ => false
  | .ldAtDeA => false
  | .incDe => false
  | .incD => false
  | .decD => false
  | .ldDN8 _ => false
  | .rla => false
  | .jrE8 _ => true
  | .addHlDe => false
  | .ldAAtDe => false
  | .decDe => false
  | .incE => false
  | .decE => false
  | .ldEN8 _ => false
  | .rra => false
  | .jrNzE8 _ => true
  | .ldHlN16 _ => false
  | .ldAtHlIncA => false
  | .incHl => false
  | .incH => false
  | .decH => false
  | .ldHN8 _ => false
  | .daa => false
  | .jrZE8 _ => true
  | .addHlHl => false
  | .ldAAtHlInc => false
  | .decHl => false
  | .incL => false
  | .decL => false
  | .ldLN8 _ => false
  | .cpl => false
  | .jrNcE8 _ => true
  | .ldSpN16 _ => false
  | .ldAtHlDecA => false
  | .incSp => false
  | .incAtHl => false
  | .decAtHl => false
  | .ldAtHlN8 _ => false
  | .scf => false
  | .jrCE8 _ => true
  | .addHlSp => false
  | .ldAAtHlDec => false
  | .decSp => false
  | .incA => false
  | .decA => false
  | .ldAN8 _ => false
  | .ccf => false
  | .ldBB => false
  | .ldBC => false
  | .ldBD => false
  | .ldBE => false
  | .ldBH => false
  | .ldBL => false
  | .ldBAtHl => false
  | .ldBA => false
  | .ldCB => false
  | .ldCC => false
  | .ldCD => false
  | .ldCE => false
  | .ldCH => false
  | .ldCL => false
  | .ldCAtHl => false
  | .ldCA => false
  | .ldDB => false
  | .ldDC => false
  | .ldDD => false
  | .ldDE => false
  | .ldDH => false
  | .ldDL => false
  | .ldDAtHl => false
  | .ldDA => false
  | .ldEB => false
  | .ldEC => false
  | .ldED => false
  | .ldEE => false
  | .ldEH => false
  | .ldEL => false
  | .ldEAtHl => false
  | .ldEA => false
  | .ldHB => false
  | .ldHC => false
  | .ldHD => false
  | .ldHE => false
  | .ldHH => false
  | .ldHL => false
  | .ldHAtHl => false
  | .ldHA => false
  | .ldLB => false
  | .ldLC => false
  | .ldLD => false
  | .ldLE => false
  | .ldLH => false
  | .ldLL => false
  | .ldLAtHl => false
  | .ldLA => false
  | .ldAtHlB => false
  | .ldAtHlC => false
  | .ldAtHlD => false
  | .ldAtHlE => false
  | .ldAtHlH => false
  | .ldAtHlL => false
  | .halt => false
  | .ldAtHlA => false
  | .ldAB => false
  | .ldAC => false
  | .ldAD => false
  | .ldAE => false
  | .ldAH => false
  | .ldAL => false
  | .ldAAtHl => false
  | .ldAA => false
  | .addAB => false
  | .addAC => false
  | .addAD => false
  | .addAE => false
  | .addAH => false
  | .addAL => false
  | .addAAtHl => false
  | .addAA => false
  | .adcAB => false
  | .adcAC => false
  | .adcAD => false
  | .adcAE => false
  | .adcAH => false
  | .adcAL => false
  | .adcAAtHl => false
  | .adcAA => false
  | .subAB => false
  | .subAC => false
  | .subAD => false
  | .subAE => false
  | .subAH => false
  | .subAL => false
  | .subAAtHl => false
  | .subAA => false
  | .sbcAB => false
  | .sbcAC => false
  | .sbcAD => false
  | .sbcAE => false
  | .sbcAH => false
  | .sbcAL => false
  | .sbcAAtHl => false
  | .sbcAA => false
  | .andAB => false
  | .andAC => false
  | .andAD => false
  | .andAE => false
  | .andAH => false
  | .andAL => false
  | .andAAtHl => false
  | .andAA => false
  | .xorAB => false
  | .xorAC => false
  | .xorAD => false
  | .xorAE => false
  | .xorAH => false
  | .xorAL => false
  | .xorAAtHl => false
  | .xorAA => false
  | .orAB => false
  | .orAC => false
  | .orAD => false
  | .orAE => false
  | .orAH => false
  | .orAL => false
  | .orAAtHl => false
  | .orAA => false
  | .cpAB => false
  | .cpAC => false
  | .cpAD => false
  | .cpAE => false
  | .cpAH => false
  | .cpAL => false
  | .cpAAtHl => false
  | .cpAA => false
  | .retNz => true
  | .popBc => false
  | .jpNzA16 _ => true
  | .jpA16 _ => true
  | .callNzA16 _ => true
  | .pushBc => false
  | .addAN8 _ => false
  | .rst00 => true
  | .retZ => true
  | .ret => true
  | .jpZA16 _ => true
  | .callZA16 _ => true
  | .callA16 _ => true
  | .adcAN8 _ => false
  | .rst08 => true
  | .retNc => true
  | .popDe => false
  | .jpNcA16 _ => true
  | .illegalD3 => false
  | .callNcA16 _ => true
  | .pushDe => false
  | .subAN8 _ => false
  | .rst10 => true
  | .retC => true
  | .reti => true
  | .jpCA16 _ => true
  | .illegalDB => false
  | .callCA16 _ => true
  | .illegalDD => false
  | .sbcAN8 _ => false
  | .rst18 => true
  | .ldhAtA8A _ => false
  | .popHl => false
  | .ldAtCA => false
  | .illegalE3 => false
  | .illegalE4 => false
  | .pushHl => false
  | .andAN8 _ => false
  | .rst20 => true
  | .addSpE8 _ => false
  | .jpHl => true
  | .ldAtA16A _ => false
  | .illegalEB => false
  | .illegalEC => false
  | .illegalED => false
  | .xorAN8 _ => false
  | .rst28 => true
  | .ldhAAtA8 _ => false
  | .popAf => false
  | .ldAAtC => false
  | .di => false
  | .illegalF4 => false
  | .pushAf => false
  | .orAN8 _ => false
  | .rst30 => true
  | .ldHlSpE8 _ => false
  | .ldSpHl => false
  | .ldAAtA16 _ => false
  | .ei => false
  | .illegalFC => false
  | .illegalFD => false
  | .cpAN8 _ => false
  | .rst38 => true
  | .prefixCb => true
  | .rlcR _ => false
  | .rlcAtHl => false
  | .rrcR _ => false
  | .rrcAtHl => false
  | .rlR _ => false
  | .rlAtHl => false
  | .rrR _ => false
  | .rrAtHl => false
  | .slaR _ => false
  | .slaAtHl => false
  | .sraR _ => false
  | .sraAtHl => false
  | .swapR _ => false
  | .swapAtHl => false
  | .srlR _ => false
  | .srlAtHl => false
  | .bitBR _ _ => false
  | .bitBAtHl _ => false
  | .resBR _ _ => false
  | .resBAtHl _ => false
  | .setBR _ _ => false
  | .setBAtHl _ => false
  | .halting => false
  | .interrupt _ => true
  | .intCancelled => true

/-- The condition of a conditional instruction (44_control.md R179). -/
def Instr.condition : Instr → Option Cond
  | .nop => none
  | .ldBcN16 _ => none
  | .ldAtBcA => none
  | .incBc => none
  | .incB => none
  | .decB => none
  | .ldBN8 _ => none
  | .rlca => none
  | .ldAtA16Sp _ => none
  | .addHlBc => none
  | .ldAAtBc => none
  | .decBc => none
  | .incC => none
  | .decC => none
  | .ldCN8 _ => none
  | .rrca => none
  | .stop _ => none
  | .ldDeN16 _ => none
  | .ldAtDeA => none
  | .incDe => none
  | .incD => none
  | .decD => none
  | .ldDN8 _ => none
  | .rla => none
  | .jrE8 _ => none
  | .addHlDe => none
  | .ldAAtDe => none
  | .decDe => none
  | .incE => none
  | .decE => none
  | .ldEN8 _ => none
  | .rra => none
  | .jrNzE8 _ => some .nz
  | .ldHlN16 _ => none
  | .ldAtHlIncA => none
  | .incHl => none
  | .incH => none
  | .decH => none
  | .ldHN8 _ => none
  | .daa => none
  | .jrZE8 _ => some .z
  | .addHlHl => none
  | .ldAAtHlInc => none
  | .decHl => none
  | .incL => none
  | .decL => none
  | .ldLN8 _ => none
  | .cpl => none
  | .jrNcE8 _ => some .nc
  | .ldSpN16 _ => none
  | .ldAtHlDecA => none
  | .incSp => none
  | .incAtHl => none
  | .decAtHl => none
  | .ldAtHlN8 _ => none
  | .scf => none
  | .jrCE8 _ => some .c
  | .addHlSp => none
  | .ldAAtHlDec => none
  | .decSp => none
  | .incA => none
  | .decA => none
  | .ldAN8 _ => none
  | .ccf => none
  | .ldBB => none
  | .ldBC => none
  | .ldBD => none
  | .ldBE => none
  | .ldBH => none
  | .ldBL => none
  | .ldBAtHl => none
  | .ldBA => none
  | .ldCB => none
  | .ldCC => none
  | .ldCD => none
  | .ldCE => none
  | .ldCH => none
  | .ldCL => none
  | .ldCAtHl => none
  | .ldCA => none
  | .ldDB => none
  | .ldDC => none
  | .ldDD => none
  | .ldDE => none
  | .ldDH => none
  | .ldDL => none
  | .ldDAtHl => none
  | .ldDA => none
  | .ldEB => none
  | .ldEC => none
  | .ldED => none
  | .ldEE => none
  | .ldEH => none
  | .ldEL => none
  | .ldEAtHl => none
  | .ldEA => none
  | .ldHB => none
  | .ldHC => none
  | .ldHD => none
  | .ldHE => none
  | .ldHH => none
  | .ldHL => none
  | .ldHAtHl => none
  | .ldHA => none
  | .ldLB => none
  | .ldLC => none
  | .ldLD => none
  | .ldLE => none
  | .ldLH => none
  | .ldLL => none
  | .ldLAtHl => none
  | .ldLA => none
  | .ldAtHlB => none
  | .ldAtHlC => none
  | .ldAtHlD => none
  | .ldAtHlE => none
  | .ldAtHlH => none
  | .ldAtHlL => none
  | .halt => none
  | .ldAtHlA => none
  | .ldAB => none
  | .ldAC => none
  | .ldAD => none
  | .ldAE => none
  | .ldAH => none
  | .ldAL => none
  | .ldAAtHl => none
  | .ldAA => none
  | .addAB => none
  | .addAC => none
  | .addAD => none
  | .addAE => none
  | .addAH => none
  | .addAL => none
  | .addAAtHl => none
  | .addAA => none
  | .adcAB => none
  | .adcAC => none
  | .adcAD => none
  | .adcAE => none
  | .adcAH => none
  | .adcAL => none
  | .adcAAtHl => none
  | .adcAA => none
  | .subAB => none
  | .subAC => none
  | .subAD => none
  | .subAE => none
  | .subAH => none
  | .subAL => none
  | .subAAtHl => none
  | .subAA => none
  | .sbcAB => none
  | .sbcAC => none
  | .sbcAD => none
  | .sbcAE => none
  | .sbcAH => none
  | .sbcAL => none
  | .sbcAAtHl => none
  | .sbcAA => none
  | .andAB => none
  | .andAC => none
  | .andAD => none
  | .andAE => none
  | .andAH => none
  | .andAL => none
  | .andAAtHl => none
  | .andAA => none
  | .xorAB => none
  | .xorAC => none
  | .xorAD => none
  | .xorAE => none
  | .xorAH => none
  | .xorAL => none
  | .xorAAtHl => none
  | .xorAA => none
  | .orAB => none
  | .orAC => none
  | .orAD => none
  | .orAE => none
  | .orAH => none
  | .orAL => none
  | .orAAtHl => none
  | .orAA => none
  | .cpAB => none
  | .cpAC => none
  | .cpAD => none
  | .cpAE => none
  | .cpAH => none
  | .cpAL => none
  | .cpAAtHl => none
  | .cpAA => none
  | .retNz => some .nz
  | .popBc => none
  | .jpNzA16 _ => some .nz
  | .jpA16 _ => none
  | .callNzA16 _ => some .nz
  | .pushBc => none
  | .addAN8 _ => none
  | .rst00 => none
  | .retZ => some .z
  | .ret => none
  | .jpZA16 _ => some .z
  | .callZA16 _ => some .z
  | .callA16 _ => none
  | .adcAN8 _ => none
  | .rst08 => none
  | .retNc => some .nc
  | .popDe => none
  | .jpNcA16 _ => some .nc
  | .illegalD3 => none
  | .callNcA16 _ => some .nc
  | .pushDe => none
  | .subAN8 _ => none
  | .rst10 => none
  | .retC => some .c
  | .reti => none
  | .jpCA16 _ => some .c
  | .illegalDB => none
  | .callCA16 _ => some .c
  | .illegalDD => none
  | .sbcAN8 _ => none
  | .rst18 => none
  | .ldhAtA8A _ => none
  | .popHl => none
  | .ldAtCA => none
  | .illegalE3 => none
  | .illegalE4 => none
  | .pushHl => none
  | .andAN8 _ => none
  | .rst20 => none
  | .addSpE8 _ => none
  | .jpHl => none
  | .ldAtA16A _ => none
  | .illegalEB => none
  | .illegalEC => none
  | .illegalED => none
  | .xorAN8 _ => none
  | .rst28 => none
  | .ldhAAtA8 _ => none
  | .popAf => none
  | .ldAAtC => none
  | .di => none
  | .illegalF4 => none
  | .pushAf => none
  | .orAN8 _ => none
  | .rst30 => none
  | .ldHlSpE8 _ => none
  | .ldSpHl => none
  | .ldAAtA16 _ => none
  | .ei => none
  | .illegalFC => none
  | .illegalFD => none
  | .cpAN8 _ => none
  | .rst38 => none
  | .prefixCb => none
  | .rlcR _ => none
  | .rlcAtHl => none
  | .rrcR _ => none
  | .rrcAtHl => none
  | .rlR _ => none
  | .rlAtHl => none
  | .rrR _ => none
  | .rrAtHl => none
  | .slaR _ => none
  | .slaAtHl => none
  | .sraR _ => none
  | .sraAtHl => none
  | .swapR _ => none
  | .swapAtHl => none
  | .srlR _ => none
  | .srlAtHl => none
  | .bitBR _ _ => none
  | .bitBAtHl _ => none
  | .resBR _ _ => none
  | .resBAtHl _ => none
  | .setBR _ _ => none
  | .setBAtHl _ => none
  | .halting => none
  | .interrupt _ => none
  | .intCancelled => none

/-- The column `m_cycles` of spec/opcode_table.json (70_reset_and_hazards.md R252), for a condition that holds (`taken`) or not; 0 where the
table gives no number. -/
def Instr.mCycles (i : Instr) (taken : Bool) : Nat :=
  match i with
  | .nop => 1
  | .ldBcN16 _ => 3
  | .ldAtBcA => 2
  | .incBc => 2
  | .incB => 1
  | .decB => 1
  | .ldBN8 _ => 2
  | .rlca => 1
  | .ldAtA16Sp _ => 5
  | .addHlBc => 2
  | .ldAAtBc => 2
  | .decBc => 2
  | .incC => 1
  | .decC => 1
  | .ldCN8 _ => 2
  | .rrca => 1
  | .stop _ => 0
  | .ldDeN16 _ => 3
  | .ldAtDeA => 2
  | .incDe => 2
  | .incD => 1
  | .decD => 1
  | .ldDN8 _ => 2
  | .rla => 1
  | .jrE8 _ => 3
  | .addHlDe => 2
  | .ldAAtDe => 2
  | .decDe => 2
  | .incE => 1
  | .decE => 1
  | .ldEN8 _ => 2
  | .rra => 1
  | .jrNzE8 _ => if taken then 3 else 2
  | .ldHlN16 _ => 3
  | .ldAtHlIncA => 2
  | .incHl => 2
  | .incH => 1
  | .decH => 1
  | .ldHN8 _ => 2
  | .daa => 1
  | .jrZE8 _ => if taken then 3 else 2
  | .addHlHl => 2
  | .ldAAtHlInc => 2
  | .decHl => 2
  | .incL => 1
  | .decL => 1
  | .ldLN8 _ => 2
  | .cpl => 1
  | .jrNcE8 _ => if taken then 3 else 2
  | .ldSpN16 _ => 3
  | .ldAtHlDecA => 2
  | .incSp => 2
  | .incAtHl => 3
  | .decAtHl => 3
  | .ldAtHlN8 _ => 3
  | .scf => 1
  | .jrCE8 _ => if taken then 3 else 2
  | .addHlSp => 2
  | .ldAAtHlDec => 2
  | .decSp => 2
  | .incA => 1
  | .decA => 1
  | .ldAN8 _ => 2
  | .ccf => 1
  | .ldBB => 1
  | .ldBC => 1
  | .ldBD => 1
  | .ldBE => 1
  | .ldBH => 1
  | .ldBL => 1
  | .ldBAtHl => 2
  | .ldBA => 1
  | .ldCB => 1
  | .ldCC => 1
  | .ldCD => 1
  | .ldCE => 1
  | .ldCH => 1
  | .ldCL => 1
  | .ldCAtHl => 2
  | .ldCA => 1
  | .ldDB => 1
  | .ldDC => 1
  | .ldDD => 1
  | .ldDE => 1
  | .ldDH => 1
  | .ldDL => 1
  | .ldDAtHl => 2
  | .ldDA => 1
  | .ldEB => 1
  | .ldEC => 1
  | .ldED => 1
  | .ldEE => 1
  | .ldEH => 1
  | .ldEL => 1
  | .ldEAtHl => 2
  | .ldEA => 1
  | .ldHB => 1
  | .ldHC => 1
  | .ldHD => 1
  | .ldHE => 1
  | .ldHH => 1
  | .ldHL => 1
  | .ldHAtHl => 2
  | .ldHA => 1
  | .ldLB => 1
  | .ldLC => 1
  | .ldLD => 1
  | .ldLE => 1
  | .ldLH => 1
  | .ldLL => 1
  | .ldLAtHl => 2
  | .ldLA => 1
  | .ldAtHlB => 2
  | .ldAtHlC => 2
  | .ldAtHlD => 2
  | .ldAtHlE => 2
  | .ldAtHlH => 2
  | .ldAtHlL => 2
  | .halt => 1
  | .ldAtHlA => 2
  | .ldAB => 1
  | .ldAC => 1
  | .ldAD => 1
  | .ldAE => 1
  | .ldAH => 1
  | .ldAL => 1
  | .ldAAtHl => 2
  | .ldAA => 1
  | .addAB => 1
  | .addAC => 1
  | .addAD => 1
  | .addAE => 1
  | .addAH => 1
  | .addAL => 1
  | .addAAtHl => 2
  | .addAA => 1
  | .adcAB => 1
  | .adcAC => 1
  | .adcAD => 1
  | .adcAE => 1
  | .adcAH => 1
  | .adcAL => 1
  | .adcAAtHl => 2
  | .adcAA => 1
  | .subAB => 1
  | .subAC => 1
  | .subAD => 1
  | .subAE => 1
  | .subAH => 1
  | .subAL => 1
  | .subAAtHl => 2
  | .subAA => 1
  | .sbcAB => 1
  | .sbcAC => 1
  | .sbcAD => 1
  | .sbcAE => 1
  | .sbcAH => 1
  | .sbcAL => 1
  | .sbcAAtHl => 2
  | .sbcAA => 1
  | .andAB => 1
  | .andAC => 1
  | .andAD => 1
  | .andAE => 1
  | .andAH => 1
  | .andAL => 1
  | .andAAtHl => 2
  | .andAA => 1
  | .xorAB => 1
  | .xorAC => 1
  | .xorAD => 1
  | .xorAE => 1
  | .xorAH => 1
  | .xorAL => 1
  | .xorAAtHl => 2
  | .xorAA => 1
  | .orAB => 1
  | .orAC => 1
  | .orAD => 1
  | .orAE => 1
  | .orAH => 1
  | .orAL => 1
  | .orAAtHl => 2
  | .orAA => 1
  | .cpAB => 1
  | .cpAC => 1
  | .cpAD => 1
  | .cpAE => 1
  | .cpAH => 1
  | .cpAL => 1
  | .cpAAtHl => 2
  | .cpAA => 1
  | .retNz => if taken then 5 else 2
  | .popBc => 3
  | .jpNzA16 _ => if taken then 4 else 3
  | .jpA16 _ => 4
  | .callNzA16 _ => if taken then 6 else 3
  | .pushBc => 4
  | .addAN8 _ => 2
  | .rst00 => 4
  | .retZ => if taken then 5 else 2
  | .ret => 4
  | .jpZA16 _ => if taken then 4 else 3
  | .callZA16 _ => if taken then 6 else 3
  | .callA16 _ => 6
  | .adcAN8 _ => 2
  | .rst08 => 4
  | .retNc => if taken then 5 else 2
  | .popDe => 3
  | .jpNcA16 _ => if taken then 4 else 3
  | .illegalD3 => 0
  | .callNcA16 _ => if taken then 6 else 3
  | .pushDe => 4
  | .subAN8 _ => 2
  | .rst10 => 4
  | .retC => if taken then 5 else 2
  | .reti => 4
  | .jpCA16 _ => if taken then 4 else 3
  | .illegalDB => 0
  | .callCA16 _ => if taken then 6 else 3
  | .illegalDD => 0
  | .sbcAN8 _ => 2
  | .rst18 => 4
  | .ldhAtA8A _ => 3
  | .popHl => 3
  | .ldAtCA => 2
  | .illegalE3 => 0
  | .illegalE4 => 0
  | .pushHl => 4
  | .andAN8 _ => 2
  | .rst20 => 4
  | .addSpE8 _ => 4
  | .jpHl => 1
  | .ldAtA16A _ => 4
  | .illegalEB => 0
  | .illegalEC => 0
  | .illegalED => 0
  | .xorAN8 _ => 2
  | .rst28 => 4
  | .ldhAAtA8 _ => 3
  | .popAf => 3
  | .ldAAtC => 2
  | .di => 1
  | .illegalF4 => 0
  | .pushAf => 4
  | .orAN8 _ => 2
  | .rst30 => 4
  | .ldHlSpE8 _ => 3
  | .ldSpHl => 2
  | .ldAAtA16 _ => 4
  | .ei => 1
  | .illegalFC => 0
  | .illegalFD => 0
  | .cpAN8 _ => 2
  | .rst38 => 4
  | .prefixCb => 0
  | .rlcR _ => 2
  | .rlcAtHl => 4
  | .rrcR _ => 2
  | .rrcAtHl => 4
  | .rlR _ => 2
  | .rlAtHl => 4
  | .rrR _ => 2
  | .rrAtHl => 4
  | .slaR _ => 2
  | .slaAtHl => 4
  | .sraR _ => 2
  | .sraAtHl => 4
  | .swapR _ => 2
  | .swapAtHl => 4
  | .srlR _ => 2
  | .srlAtHl => 4
  | .bitBR _ _ => 2
  | .bitBAtHl _ => 3
  | .resBR _ _ => 2
  | .resBAtHl _ => 4
  | .setBR _ _ => 2
  | .setBAtHl _ => 4
  | .halting => 1
  | .interrupt _ => 5
  | .intCancelled => 5

/-- STOP and the illegal opcodes: the instructions that stop the machine (60_exceptions.md R201). -/
def Instr.stops : Instr → Bool
  | .nop => false
  | .ldBcN16 _ => false
  | .ldAtBcA => false
  | .incBc => false
  | .incB => false
  | .decB => false
  | .ldBN8 _ => false
  | .rlca => false
  | .ldAtA16Sp _ => false
  | .addHlBc => false
  | .ldAAtBc => false
  | .decBc => false
  | .incC => false
  | .decC => false
  | .ldCN8 _ => false
  | .rrca => false
  | .stop _ => true
  | .ldDeN16 _ => false
  | .ldAtDeA => false
  | .incDe => false
  | .incD => false
  | .decD => false
  | .ldDN8 _ => false
  | .rla => false
  | .jrE8 _ => false
  | .addHlDe => false
  | .ldAAtDe => false
  | .decDe => false
  | .incE => false
  | .decE => false
  | .ldEN8 _ => false
  | .rra => false
  | .jrNzE8 _ => false
  | .ldHlN16 _ => false
  | .ldAtHlIncA => false
  | .incHl => false
  | .incH => false
  | .decH => false
  | .ldHN8 _ => false
  | .daa => false
  | .jrZE8 _ => false
  | .addHlHl => false
  | .ldAAtHlInc => false
  | .decHl => false
  | .incL => false
  | .decL => false
  | .ldLN8 _ => false
  | .cpl => false
  | .jrNcE8 _ => false
  | .ldSpN16 _ => false
  | .ldAtHlDecA => false
  | .incSp => false
  | .incAtHl => false
  | .decAtHl => false
  | .ldAtHlN8 _ => false
  | .scf => false
  | .jrCE8 _ => false
  | .addHlSp => false
  | .ldAAtHlDec => false
  | .decSp => false
  | .incA => false
  | .decA => false
  | .ldAN8 _ => false
  | .ccf => false
  | .ldBB => false
  | .ldBC => false
  | .ldBD => false
  | .ldBE => false
  | .ldBH => false
  | .ldBL => false
  | .ldBAtHl => false
  | .ldBA => false
  | .ldCB => false
  | .ldCC => false
  | .ldCD => false
  | .ldCE => false
  | .ldCH => false
  | .ldCL => false
  | .ldCAtHl => false
  | .ldCA => false
  | .ldDB => false
  | .ldDC => false
  | .ldDD => false
  | .ldDE => false
  | .ldDH => false
  | .ldDL => false
  | .ldDAtHl => false
  | .ldDA => false
  | .ldEB => false
  | .ldEC => false
  | .ldED => false
  | .ldEE => false
  | .ldEH => false
  | .ldEL => false
  | .ldEAtHl => false
  | .ldEA => false
  | .ldHB => false
  | .ldHC => false
  | .ldHD => false
  | .ldHE => false
  | .ldHH => false
  | .ldHL => false
  | .ldHAtHl => false
  | .ldHA => false
  | .ldLB => false
  | .ldLC => false
  | .ldLD => false
  | .ldLE => false
  | .ldLH => false
  | .ldLL => false
  | .ldLAtHl => false
  | .ldLA => false
  | .ldAtHlB => false
  | .ldAtHlC => false
  | .ldAtHlD => false
  | .ldAtHlE => false
  | .ldAtHlH => false
  | .ldAtHlL => false
  | .halt => false
  | .ldAtHlA => false
  | .ldAB => false
  | .ldAC => false
  | .ldAD => false
  | .ldAE => false
  | .ldAH => false
  | .ldAL => false
  | .ldAAtHl => false
  | .ldAA => false
  | .addAB => false
  | .addAC => false
  | .addAD => false
  | .addAE => false
  | .addAH => false
  | .addAL => false
  | .addAAtHl => false
  | .addAA => false
  | .adcAB => false
  | .adcAC => false
  | .adcAD => false
  | .adcAE => false
  | .adcAH => false
  | .adcAL => false
  | .adcAAtHl => false
  | .adcAA => false
  | .subAB => false
  | .subAC => false
  | .subAD => false
  | .subAE => false
  | .subAH => false
  | .subAL => false
  | .subAAtHl => false
  | .subAA => false
  | .sbcAB => false
  | .sbcAC => false
  | .sbcAD => false
  | .sbcAE => false
  | .sbcAH => false
  | .sbcAL => false
  | .sbcAAtHl => false
  | .sbcAA => false
  | .andAB => false
  | .andAC => false
  | .andAD => false
  | .andAE => false
  | .andAH => false
  | .andAL => false
  | .andAAtHl => false
  | .andAA => false
  | .xorAB => false
  | .xorAC => false
  | .xorAD => false
  | .xorAE => false
  | .xorAH => false
  | .xorAL => false
  | .xorAAtHl => false
  | .xorAA => false
  | .orAB => false
  | .orAC => false
  | .orAD => false
  | .orAE => false
  | .orAH => false
  | .orAL => false
  | .orAAtHl => false
  | .orAA => false
  | .cpAB => false
  | .cpAC => false
  | .cpAD => false
  | .cpAE => false
  | .cpAH => false
  | .cpAL => false
  | .cpAAtHl => false
  | .cpAA => false
  | .retNz => false
  | .popBc => false
  | .jpNzA16 _ => false
  | .jpA16 _ => false
  | .callNzA16 _ => false
  | .pushBc => false
  | .addAN8 _ => false
  | .rst00 => false
  | .retZ => false
  | .ret => false
  | .jpZA16 _ => false
  | .callZA16 _ => false
  | .callA16 _ => false
  | .adcAN8 _ => false
  | .rst08 => false
  | .retNc => false
  | .popDe => false
  | .jpNcA16 _ => false
  | .illegalD3 => true
  | .callNcA16 _ => false
  | .pushDe => false
  | .subAN8 _ => false
  | .rst10 => false
  | .retC => false
  | .reti => false
  | .jpCA16 _ => false
  | .illegalDB => true
  | .callCA16 _ => false
  | .illegalDD => true
  | .sbcAN8 _ => false
  | .rst18 => false
  | .ldhAtA8A _ => false
  | .popHl => false
  | .ldAtCA => false
  | .illegalE3 => true
  | .illegalE4 => true
  | .pushHl => false
  | .andAN8 _ => false
  | .rst20 => false
  | .addSpE8 _ => false
  | .jpHl => false
  | .ldAtA16A _ => false
  | .illegalEB => true
  | .illegalEC => true
  | .illegalED => true
  | .xorAN8 _ => false
  | .rst28 => false
  | .ldhAAtA8 _ => false
  | .popAf => false
  | .ldAAtC => false
  | .di => false
  | .illegalF4 => true
  | .pushAf => false
  | .orAN8 _ => false
  | .rst30 => false
  | .ldHlSpE8 _ => false
  | .ldSpHl => false
  | .ldAAtA16 _ => false
  | .ei => false
  | .illegalFC => true
  | .illegalFD => true
  | .cpAN8 _ => false
  | .rst38 => false
  | .prefixCb => false
  | .rlcR _ => false
  | .rlcAtHl => false
  | .rrcR _ => false
  | .rrcAtHl => false
  | .rlR _ => false
  | .rlAtHl => false
  | .rrR _ => false
  | .rrAtHl => false
  | .slaR _ => false
  | .slaAtHl => false
  | .sraR _ => false
  | .sraAtHl => false
  | .swapR _ => false
  | .swapAtHl => false
  | .srlR _ => false
  | .srlAtHl => false
  | .bitBR _ _ => false
  | .bitBAtHl _ => false
  | .resBR _ _ => false
  | .resBAtHl _ => false
  | .setBR _ _ => false
  | .setBAtHl _ => false
  | .halting => false
  | .interrupt _ => false
  | .intCancelled => false

end Sys2Proof

namespace Sys2Proof.Machine

/-- The addresses an instruction stores to, in the order of its stores. -/
def storesTo (i : Instr) (s : State) : List Word :=
  match i with
  | .nop => []
  | .ldBcN16 _ => []
  | .ldAtBcA => [s.bc]
  | .incBc => []
  | .incB => []
  | .decB => []
  | .ldBN8 _ => []
  | .rlca => []
  | .ldAtA16Sp w => [w, w + 1]
  | .addHlBc => []
  | .ldAAtBc => []
  | .decBc => []
  | .incC => []
  | .decC => []
  | .ldCN8 _ => []
  | .rrca => []
  | .stop _ => []
  | .ldDeN16 _ => []
  | .ldAtDeA => [s.de]
  | .incDe => []
  | .incD => []
  | .decD => []
  | .ldDN8 _ => []
  | .rla => []
  | .jrE8 _ => []
  | .addHlDe => []
  | .ldAAtDe => []
  | .decDe => []
  | .incE => []
  | .decE => []
  | .ldEN8 _ => []
  | .rra => []
  | .jrNzE8 _ => []
  | .ldHlN16 _ => []
  | .ldAtHlIncA => [s.hl]
  | .incHl => []
  | .incH => []
  | .decH => []
  | .ldHN8 _ => []
  | .daa => []
  | .jrZE8 _ => []
  | .addHlHl => []
  | .ldAAtHlInc => []
  | .decHl => []
  | .incL => []
  | .decL => []
  | .ldLN8 _ => []
  | .cpl => []
  | .jrNcE8 _ => []
  | .ldSpN16 _ => []
  | .ldAtHlDecA => [s.hl]
  | .incSp => []
  | .incAtHl => [s.hl]
  | .decAtHl => [s.hl]
  | .ldAtHlN8 _ => [s.hl]
  | .scf => []
  | .jrCE8 _ => []
  | .addHlSp => []
  | .ldAAtHlDec => []
  | .decSp => []
  | .incA => []
  | .decA => []
  | .ldAN8 _ => []
  | .ccf => []
  | .ldBB => []
  | .ldBC => []
  | .ldBD => []
  | .ldBE => []
  | .ldBH => []
  | .ldBL => []
  | .ldBAtHl => []
  | .ldBA => []
  | .ldCB => []
  | .ldCC => []
  | .ldCD => []
  | .ldCE => []
  | .ldCH => []
  | .ldCL => []
  | .ldCAtHl => []
  | .ldCA => []
  | .ldDB => []
  | .ldDC => []
  | .ldDD => []
  | .ldDE => []
  | .ldDH => []
  | .ldDL => []
  | .ldDAtHl => []
  | .ldDA => []
  | .ldEB => []
  | .ldEC => []
  | .ldED => []
  | .ldEE => []
  | .ldEH => []
  | .ldEL => []
  | .ldEAtHl => []
  | .ldEA => []
  | .ldHB => []
  | .ldHC => []
  | .ldHD => []
  | .ldHE => []
  | .ldHH => []
  | .ldHL => []
  | .ldHAtHl => []
  | .ldHA => []
  | .ldLB => []
  | .ldLC => []
  | .ldLD => []
  | .ldLE => []
  | .ldLH => []
  | .ldLL => []
  | .ldLAtHl => []
  | .ldLA => []
  | .ldAtHlB => [s.hl]
  | .ldAtHlC => [s.hl]
  | .ldAtHlD => [s.hl]
  | .ldAtHlE => [s.hl]
  | .ldAtHlH => [s.hl]
  | .ldAtHlL => [s.hl]
  | .halt => []
  | .ldAtHlA => [s.hl]
  | .ldAB => []
  | .ldAC => []
  | .ldAD => []
  | .ldAE => []
  | .ldAH => []
  | .ldAL => []
  | .ldAAtHl => []
  | .ldAA => []
  | .addAB => []
  | .addAC => []
  | .addAD => []
  | .addAE => []
  | .addAH => []
  | .addAL => []
  | .addAAtHl => []
  | .addAA => []
  | .adcAB => []
  | .adcAC => []
  | .adcAD => []
  | .adcAE => []
  | .adcAH => []
  | .adcAL => []
  | .adcAAtHl => []
  | .adcAA => []
  | .subAB => []
  | .subAC => []
  | .subAD => []
  | .subAE => []
  | .subAH => []
  | .subAL => []
  | .subAAtHl => []
  | .subAA => []
  | .sbcAB => []
  | .sbcAC => []
  | .sbcAD => []
  | .sbcAE => []
  | .sbcAH => []
  | .sbcAL => []
  | .sbcAAtHl => []
  | .sbcAA => []
  | .andAB => []
  | .andAC => []
  | .andAD => []
  | .andAE => []
  | .andAH => []
  | .andAL => []
  | .andAAtHl => []
  | .andAA => []
  | .xorAB => []
  | .xorAC => []
  | .xorAD => []
  | .xorAE => []
  | .xorAH => []
  | .xorAL => []
  | .xorAAtHl => []
  | .xorAA => []
  | .orAB => []
  | .orAC => []
  | .orAD => []
  | .orAE => []
  | .orAH => []
  | .orAL => []
  | .orAAtHl => []
  | .orAA => []
  | .cpAB => []
  | .cpAC => []
  | .cpAD => []
  | .cpAE => []
  | .cpAH => []
  | .cpAL => []
  | .cpAAtHl => []
  | .cpAA => []
  | .retNz => []
  | .popBc => []
  | .jpNzA16 _ => []
  | .jpA16 _ => []
  | .callNzA16 _ => if s.cond .nz then [s.regs.sp - 1, s.regs.sp - 2] else []
  | .pushBc => [s.regs.sp - 1, s.regs.sp - 2]
  | .addAN8 _ => []
  | .rst00 => [s.regs.sp - 1, s.regs.sp - 2]
  | .retZ => []
  | .ret => []
  | .jpZA16 _ => []
  | .callZA16 _ => if s.cond .z then [s.regs.sp - 1, s.regs.sp - 2] else []
  | .callA16 _ => [s.regs.sp - 1, s.regs.sp - 2]
  | .adcAN8 _ => []
  | .rst08 => [s.regs.sp - 1, s.regs.sp - 2]
  | .retNc => []
  | .popDe => []
  | .jpNcA16 _ => []
  | .illegalD3 => []
  | .callNcA16 _ => if s.cond .nc then [s.regs.sp - 1, s.regs.sp - 2] else []
  | .pushDe => [s.regs.sp - 1, s.regs.sp - 2]
  | .subAN8 _ => []
  | .rst10 => [s.regs.sp - 1, s.regs.sp - 2]
  | .retC => []
  | .reti => []
  | .jpCA16 _ => []
  | .illegalDB => []
  | .callCA16 _ => if s.cond .c then [s.regs.sp - 1, s.regs.sp - 2] else []
  | .illegalDD => []
  | .sbcAN8 _ => []
  | .rst18 => [s.regs.sp - 1, s.regs.sp - 2]
  | .ldhAtA8A o => [highPage o]
  | .popHl => []
  | .ldAtCA => [highPage s.regs.c]
  | .illegalE3 => []
  | .illegalE4 => []
  | .pushHl => [s.regs.sp - 1, s.regs.sp - 2]
  | .andAN8 _ => []
  | .rst20 => [s.regs.sp - 1, s.regs.sp - 2]
  | .addSpE8 _ => []
  | .jpHl => []
  | .ldAtA16A w => [w]
  | .illegalEB => []
  | .illegalEC => []
  | .illegalED => []
  | .xorAN8 _ => []
  | .rst28 => [s.regs.sp - 1, s.regs.sp - 2]
  | .ldhAAtA8 _ => []
  | .popAf => []
  | .ldAAtC => []
  | .di => []
  | .illegalF4 => []
  | .pushAf => [s.regs.sp - 1, s.regs.sp - 2]
  | .orAN8 _ => []
  | .rst30 => [s.regs.sp - 1, s.regs.sp - 2]
  | .ldHlSpE8 _ => []
  | .ldSpHl => []
  | .ldAAtA16 _ => []
  | .ei => []
  | .illegalFC => []
  | .illegalFD => []
  | .cpAN8 _ => []
  | .rst38 => [s.regs.sp - 1, s.regs.sp - 2]
  | .prefixCb => if fieldX s.fetchVal ≠ 1 ∧ fieldZ s.fetchVal = 6 then [s.hl] else []
  | .rlcR _ => []
  | .rlcAtHl => [s.hl]
  | .rrcR _ => []
  | .rrcAtHl => [s.hl]
  | .rlR _ => []
  | .rlAtHl => [s.hl]
  | .rrR _ => []
  | .rrAtHl => [s.hl]
  | .slaR _ => []
  | .slaAtHl => [s.hl]
  | .sraR _ => []
  | .sraAtHl => [s.hl]
  | .swapR _ => []
  | .swapAtHl => [s.hl]
  | .srlR _ => []
  | .srlAtHl => [s.hl]
  | .bitBR _ _ => []
  | .bitBAtHl _ => []
  | .resBR _ _ => []
  | .resBAtHl _ => [s.hl]
  | .setBR _ _ => []
  | .setBAtHl _ => [s.hl]
  | .halting => []
  | .interrupt _ => []
  | .intCancelled => []

/-- The condition of an instruction holds; true of an unconditional one. -/
def State.taken (s : State) (i : Instr) : Bool :=
  match i.condition with
  | some cc => s.cond cc
  | none => true

/-! ### Whole parts of the state -/

/-- A store to `a` may change what the bypass path reads at `b`: the two share a byte; or `a` is a control register of the cartridge and `b` lies in a
banked window; or a store to DIV, TMA or TAC moves TIMA (60_exceptions.md R214, R217); or a store to BOOT uncovers the ROM (20_memory.md R51, R60). -/
def storeReaches (a b : Word) : Prop :=
  a = b ∨ (ramKey a ≠ none ∧ ramKey a = ramKey b)
    ∨ (a.toNat ≤ 0x7FFF ∧ (b.toNat ≤ 0x7FFF ∨ (0xA000 ≤ b.toNat ∧ b.toNat ≤ 0xBFFF)))
    ∨ (a.toNat ∈ [0xFF04, 0xFF06, 0xFF07] ∧ b.toNat = 0xFF05)
    ∨ (a.toNat = 0xFF50 ∧ b.toNat ≤ 0xFF)

/-- A controller without its state: the strategy that the parameter `CART` names (00_scope.md R9). -/
def Controller.strategy : Controller → Controller
  | .romOnly => .romOnly
  | .bank5 _ => .bank5 0
  | .given record _ => .given record 0
  | .external _ => .external default

/-- What no instruction and no device changes: the images, the parameters, the source of the environment's draws and the strategy of the
cartridge controller. -/
def SameFixed (s t : State) : Prop :=
  t.bus.bootRom = s.bus.bootRom ∧ t.bus.cartRom = s.bus.cartRom ∧ t.bus.cartRomLen = s.bus.cartRomLen
    ∧ t.env.source = s.env.source ∧ t.params = s.params ∧ t.cart.strategy = s.cart.strategy

/-! ### Invariants of a run -/

/-- The low four bits of F are 0 (10_state.md R22). -/
def FlagInv (s : State) : Prop := s.regs.f &&& 0x0F = 0

/-- The control state: the ranges of R26 and R241, and a CPU with the halt bug is not halted (45_system.md R195, R198). -/
def CpuInv (s : State) : Prop :=
  s.cpu.eiDelay ≤ 2 ∧ s.cpu.cpuWait ≤ 23 ∧ ¬(s.cpu.halted = true ∧ s.cpu.haltBug = true)

/-- The four byte stores are in canonical form, and the cartridge image has a legal length (00_scope.md R9). -/
def MemInv (s : State) : Prop :=
  Memory.wf (Config.unlisted .ram) s.bus.ram = true ∧ Memory.wf (Config.unlisted .bootRom) s.bus.bootRom = true
    ∧ Memory.wf (Config.unlisted .cartRom) s.bus.cartRom = true ∧ Memory.wf (Config.unlisted .cartRam) s.bus.cartRam = true
    ∧ 32768 ≤ s.bus.cartRomLen ∧ s.bus.cartRomLen % 16384 = 0

/-- The timer: 1 to 4 ticks are left in a phase, TIMA is 0 in phase A and equals TMA in phase B, and the remembered multiplexer output is
the present one (60_exceptions.md R214 to R217). -/
def TimerInv (s : State) : Prop :=
  s.timer.signal = s.timer.signalNow
    ∧ match s.timer.phase with
      | .idle => True
      | .a k => 1 ≤ k ∧ k ≤ 4 ∧ s.timer.tima = 0
      | .b k => 1 ≤ k ∧ k ≤ 4 ∧ s.timer.tima = s.timer.tma

/-- The pixel pipeline: the ranges of 10_state.md R44, `on` equal to LCDC bit 7 (R34), a PPU that is off at line 0 dot 0 in HBLANK
(60_exceptions.md R233), at most 10 objects sorted by x (R220), queues of at most 8 and of exactly 8 slots, and fewer than 160 pixels
put out while it draws. -/
def PpuInv (s : State) : Prop :=
  s.ppu.line < 154 ∧ s.ppu.dot < 456
    ∧ s.ppu.on = s.lcd.lcdc.getLsbD 7
    ∧ (s.ppu.on = false → s.ppu.line = 0 ∧ s.ppu.dot = 0 ∧ s.ppu.mode = .hblank)
    ∧ s.ppu.objs.length ≤ 10 ∧ s.ppu.objs.Pairwise (fun a b => a.x.toNat ≤ b.x.toNat)
    ∧ s.ppu.bgFifo.length ≤ 8 ∧ s.ppu.objFifo.length = 8
    ∧ s.ppu.fetch.stage ≤ 5 ∧ s.ppu.ofetch.stage ≤ 5
    ∧ s.ppu.lx ≤ 160 ∧ (s.ppu.mode = .draw → s.ppu.lx < 160)
    ∧ s.ppu.discard ≤ 7 ∧ s.ppu.delay ≤ 100 ∧ s.ppu.suppress ≤ 2

/-- The DMA engine: a running transfer has a byte to copy and 1 to 5 ticks to wait, from a source page (R234, R235; C10). -/
def DmaInv (s : State) : Prop :=
  (s.dma.active = true → s.dma.index < 160 ∧ 1 ≤ s.dma.count ∧ s.dma.count ≤ 5) ∧ loByte s.dma.src = 0

/-- The invariant of a run. -/
structure Inv (s : State) : Prop where
  flags : FlagInv s
  cpu : CpuInv s
  memory : MemInv s
  timer : TimerInv s
  ppu : PpuInv s
  dma : DmaInv s

end Sys2Proof.Machine
end

