-- ==== Sys2Proof/Certificates/Slice0/Obligations.lean ====
section
/-! DEFINITION. The statements for the provers, each a proposition named by what it states. -/

open Sys2Proof Sys2Proof.Machine

/-! ### Encoding (30_encoding.md) -/

/-- Decoding the bytes of any whole instruction gives it back, with every operand, and leaves what follows (R72 to R83). -/
def Obligations.DecodeOfEncode : Prop :=
  ∀ (i : Instr) (rest : List Byte), i.wellFormed = true → decode (encode i ++ rest) = .ok (i, rest)

/-- Every list of bytes that decodes is the encoding of what it decodes to, which is one whole instruction, or the bare prefix at the
end of the list, the model's choice of log 8 (R72, R75). -/
def Obligations.EncodeOfDecode : Prop :=
  ∀ (bs : List Byte) (i : Instr) (rest : List Byte), decode bs = .ok (i, rest) →
    encode i ++ rest = bs ∧ (i.wellFormed = true ∨ i = .prefixCb)

/-- Words of the opcode maps R82 and R83, written out from their fields, decode to the instructions that the maps name, and the first byte
gives the length that R74 lists. -/
def Obligations.OpcodeMapWords : Prop :=
  decode [0b01000001] = .ok (.ldBC, []) ∧ decode [0x36, 0x5A] = .ok (.ldAtHlN8 0x5A, [])
    ∧ decode [0x08, 0x00, 0xC1] = .ok (.ldAtA16Sp 0xC100, []) ∧ decode [0b11110001] = .ok (.popAf, [])
    ∧ decode [0b10011110] = .ok (.sbcAAtHl, []) ∧ decode [0xFE, 0x3C] = .ok (.cpAN8 0x3C, [])
    ∧ decode [0b00111001] = .ok (.addHlSp, []) ∧ decode [0xF8, 0xFF] = .ok (.ldHlSpE8 0xFF, [])
    ∧ decode [0xCB, 0b00110111] = .ok (.swapR .a, []) ∧ decode [0xCB, 0b11111110] = .ok (.setBAtHl 7, [])
    ∧ decode [0x20, 0xFC] = .ok (.jrNzE8 0xFC, []) ∧ decode [0xDC, 0x34, 0x12] = .ok (.callCA16 0x1234, [])
    ∧ decode [0b11101111] = .ok (.rst28, []) ∧ decode [0b01110110] = .ok (.halt, [])
    ∧ decode [0x10, 0x00] = .ok (.stop 0, []) ∧ decode [0xED] = .ok (.illegalED, [])
    ∧ (∀ b ∈ [(0x06 : Byte), 0x0E, 0x10, 0x16, 0x18, 0x1E, 0x20, 0x26, 0x28, 0x2E, 0x30, 0x36, 0x38, 0x3E, 0xC6, 0xCB, 0xCE, 0xD6, 0xDE,
        0xE0, 0xE6, 0xE8, 0xEE, 0xF0, 0xF6, 0xF8, 0xFE], instrLength b = 2)
    ∧ (∀ b ∈ [(0x01 : Byte), 0x08, 0x11, 0x21, 0x31, 0xC2, 0xC3, 0xC4, 0xCA, 0xCC, 0xCD, 0xD2, 0xD4, 0xDA, 0xDC, 0xEA, 0xFA],
        instrLength b = 3)
    ∧ ((List.range 256).filter fun b => instrLength (BitVec.ofNat 8 b) = 1).length = 256 - 27 - 17

/-! ### The tick and the cycle (20_memory.md, 30_encoding.md, 70_reset_and_hazards.md) -/

/-- A tick runs the CPU step, the timer, one dot, the DMA and the environment, in the order that the spec takes (R66, D7), and counts itself; a waiting CPU only
counts down (R241); a stop of the CPU step ends the tick (R14). That one step is one tick is the model's choice of log 6; that a stop is recorded in the state and
answers for ever is the model's reading of R14, log 12. -/
def Obligations.TickRunsFiveStepsInOrder : Prop :=
  ∀ s : State,
    (∀ t, s.stopped = none → cpuStep s = .next t →
        step s = .next { envStep (dmaTick (ppuStep (timerTick t))) with
          ticks := (envStep (dmaTick (ppuStep (timerTick t)))).ticks + 1 })
      ∧ (∀ f, s.stopped = none → cpuStep s = .fault f → step s = .fault f)
      ∧ (∀ r, s.stopped = none → cpuStep s = .refused r → step s = .refused r)
      ∧ (s.cpu.cpuWait > 0 → cpuStep s = .next { s with cpu.cpuWait := s.cpu.cpuWait - 1 })
      ∧ (s.cpu.cpuWait = 0 → cpuStep s = cycle s)
      ∧ (∀ f, s.cpu.fault = some f → step s = .fault f)
      ∧ (∀ r, s.cpu.fault = none → s.cpu.refused = some r → step s = .refused r)

/-- When the CPU starts a cycle with no interrupt to dispatch, not halted after the wake test and without the halt bug, the bytes that the bus gives at
PC decode to an instruction, and the tick is that instruction's effect with PC past its bytes (past one byte of STOP, the model's reading of log 7), its trace record
added first in the list of log 11, then the devices (R70, R71, R74, R75, R212). -/
def Obligations.StepRunsDecodedInstruction : Prop :=
  ∀ (s : State) (i : Instr) (rest : List Byte),
    let c := beginCycle s
    let w := c.woken
    let b0 := w.fetchVal
    let b1 := w.afterFetch.fetchVal
    let b2 := w.afterFetch.afterFetch.fetchVal
    let op : OpcodeId := if b0 = 0xCB then .cb b1 else .byte b0
    let fetched := if b0 = 0x10 then 1 else instrLength b0
    let published := if b0 = 0xCB then w.afterFetch.afterFetch else w.afterFetch
    let f := State.afterFetch^[fetched] w
    let u : State :=
      { f with
        cpu.opcode := op
        out.trace := { instrAddr := s.regs.pc, opcode := op, regs := published.regs, halted := false, ime := c.cpu.ime } :: s.out.trace }
    s.stopped = none → s.cpu.cpuWait = 0 → c.dispatches = false → w.cpu.halted = false → s.cpu.haltBug = false →
    decode [b0, b1, b2] = .ok (i, rest) →
      (∀ t, exec i u = .next t → step s = .next (devices t))
        ∧ (∀ e, exec i u = .fault e → step s = .fault e)
        ∧ (∀ r, exec i u = .refused r → step s = .refused r)

/-- With the halt bug, the opcode byte is read without advancing PC and the bug is cleared, so the byte is read once more as whatever is fetched next;
an interrupt dispatched instead returns to PC − 1 (R198). That STOP fetches no second byte is the model's reading of log 7, and the list that the trace record goes
first into is the model's choice of log 11. -/
def Obligations.HaltBugReadsTheByteTwice : Prop :=
  ∀ (s : State) (i : Instr) (rest : List Byte),
    let c := beginCycle s
    let b0 := c.fetchVal
    let w : State := { c.afterLoad c.regs.pc with cpu.haltBug := false }
    let b1 := w.fetchVal
    let b2 := w.afterFetch.fetchVal
    let op : OpcodeId := if b0 = 0xCB then .cb b1 else .byte b0
    let fetched := if b0 = 0x10 then 0 else instrLength b0 - 1
    let published := if b0 = 0xCB then w.afterFetch else w
    let f := State.afterFetch^[fetched] w
    let u : State :=
      { f with
        cpu.opcode := op
        out.trace := { instrAddr := s.regs.pc, opcode := op, regs := published.regs, halted := false, ime := c.cpu.ime } :: s.out.trace }
    s.cpu.haltBug = true → s.cpu.halted = false →
      (c.entryReturn = s.regs.pc - 1)
        ∧ (c.dispatches = false → decode [b0, b1, b2] = .ok (i, rest) → cycle s = exec i u)

/-- An interrupt entry and its service, or the cancelled entry: in a cycle with IME true and an enabled request pending, PC (PC − 1 after the halt bug) is
pushed by two byte stores, high byte first, with IME, `halted`, `haltBug` and the EI delay cleared; the source is chosen again after the
high byte; its IF bit is cleared and PC is its vector, or PC is 0 when none is left; five M-cycles (R205, R206, R207). R205 marks the order inside the entry, the
return address after a halt bug and the cleared EI delay as the spec's own choices; the split into the entry and a pseudo-opcode is the model's reading of log 10,
and the list that the trace record goes first into is its choice of log 11. -/
def Obligations.InterruptEntryAndService : Prop :=
  ∀ s : State,
    let c := beginCycle s
    let ret := if s.cpu.haltBug then s.regs.pc - 1 else s.regs.pc
    let s0 : State :=
      { c with
        cpu := { c.cpu with haltBug := false, halted := false, ime := false, eiDelay := 0 }
        regs.sp := s.regs.sp - 1 }
    let s1 := s0.store (s.regs.sp - 1) (hiByte ret)
    let s2 := State.store { s1 with regs.sp := s.regs.sp - 2 } (s.regs.sp - 2) (loByte ret)
    s.stopped = none → s.cpu.cpuWait = 0 → c.dispatches = true →
      (∀ k, lowestIrq s1.pending = some k →
          let p := publishTrace (.interrupt k) s2
          step s = .next (devices
            { p with irq.ifl := p.irq.ifl &&& ~~~(1#5 <<< irqBit k), regs.pc := BitVec.ofNat 16 (0x40 + 8 * irqBit k), cpu.cpuWait := 19 }))
        ∧ (s1.pending = 0 →
          let p := publishTrace .intCancelled s2
          step s = .next (devices { p with regs.pc := 0, cpu.cpuWait := 19 }))

/-- The serviced source is the lowest set bit of IE AND IF AND 0x1F: VBlank, STAT, Timer, Serial, Joypad in falling priority (R204). -/
def Obligations.LowestPendingSourceIsServiced : Prop :=
  ∀ (s : State) (k : IrqSource),
    (lowestIrq s.pending = some k ↔
      (s.irq.ie.getLsbD (irqBit k) = true ∧ s.irq.ifl.getLsbD (irqBit k) = true
        ∧ ∀ j : IrqSource, irqBit j < irqBit k → (s.irq.ie.getLsbD (irqBit j) && s.irq.ifl.getLsbD (irqBit j)) = false))
      ∧ (lowestIrq s.pending = none ↔ s.pending = 0)

/-! ### Loads, stores, stack (40_loads.md) -/

/-- `LD r,r'`, `LD r,n8`, `LD r,(HL)`, `LD (HL),r` and `LD (HL),n8`: the bytes, the effect, no flag, the cost (R87 to R91). -/
def Obligations.EightBitLoads : Prop :=
  ∀ (s : State) (dst r : Reg8) (n : Byte),
    encode (.ldRegReg dst r) = [opByte 1 dst.field r.field]
      ∧ exec (.ldRegReg dst r) s = .next ((s.setReg8 dst (s.reg8 r)).cost 1)
      ∧ encode (.ldRegN8 r n) = [opByte 0 r.field 6, n]
      ∧ exec (.ldRegN8 r n) s = .next ((s.setReg8 r n).cost 2)
      ∧ encode (.ldRegAtHl r) = [opByte 1 r.field 6]
      ∧ exec (.ldRegAtHl r) s = .next (((s.afterLoad s.hl).setReg8 r (s.loadVal s.hl)).cost 2)
      ∧ encode (.ldAtHlReg r) = [opByte 1 6 r.field]
      ∧ exec (.ldAtHlReg r) s = .next ((s.store s.hl (s.reg8 r)).cost 2)
      ∧ encode (.ldAtHlN8 n) = [0x36, n]
      ∧ exec (.ldAtHlN8 n) s = .next ((s.store s.hl n).cost 3)

/-- The accumulator loads through BC, DE and HL; the HL forms then move HL by one, modulo 65536, with no flag (R92 to R99). -/
def Obligations.IndirectAccumulatorLoads : Prop :=
  ∀ s : State,
    (encode .ldAAtBc = [0x0A] ∧ exec .ldAAtBc s = .next ((State.setReg8 (s.afterLoad s.bc) .a (s.loadVal s.bc)).cost 2))
      ∧ (encode .ldAAtDe = [0x1A] ∧ exec .ldAAtDe s = .next ((State.setReg8 (s.afterLoad s.de) .a (s.loadVal s.de)).cost 2))
      ∧ (encode .ldAtBcA = [0x02] ∧ exec .ldAtBcA s = .next ((s.store s.bc s.regs.a).cost 2))
      ∧ (encode .ldAtDeA = [0x12] ∧ exec .ldAtDeA s = .next ((s.store s.de s.regs.a).cost 2))
      ∧ (encode .ldAtHlIncA = [0x22] ∧ exec .ldAtHlIncA s = .next (((s.store s.hl s.regs.a).setPair .hl (s.hl + 1)).cost 2))
      ∧ (encode .ldAAtHlInc = [0x2A]
          ∧ exec .ldAAtHlInc s = .next ((State.setPair (State.setReg8 (s.afterLoad s.hl) .a (s.loadVal s.hl)) .hl (s.hl + 1)).cost 2))
      ∧ (encode .ldAtHlDecA = [0x32] ∧ exec .ldAtHlDecA s = .next (((s.store s.hl s.regs.a).setPair .hl (s.hl - 1)).cost 2))
      ∧ (encode .ldAAtHlDec = [0x3A]
          ∧ exec .ldAAtHlDec s = .next ((State.setPair (State.setReg8 (s.afterLoad s.hl) .a (s.loadVal s.hl)) .hl (s.hl - 1)).cost 2))

/-- The direct and high-page accumulator loads: the address is the 16-bit operand, 0xFF00 + a8 or 0xFF00 + C (R100 to R105). -/
def Obligations.DirectAndHighPageLoads : Prop :=
  ∀ (s : State) (w : Word) (o : Byte),
    let page : Word := BitVec.ofNat 16 (0xFF00 + o.toNat)
    let pageC : Word := BitVec.ofNat 16 (0xFF00 + s.regs.c.toNat)
    (encode (.ldAAtA16 w) = [0xFA, loByte w, hiByte w]
        ∧ exec (.ldAAtA16 w) s = .next ((State.setReg8 (s.afterLoad w) .a (s.loadVal w)).cost 4))
      ∧ (encode (.ldAtA16A w) = [0xEA, loByte w, hiByte w] ∧ exec (.ldAtA16A w) s = .next ((s.store w s.regs.a).cost 4))
      ∧ (encode (.ldhAAtA8 o) = [0xF0, o] ∧ exec (.ldhAAtA8 o) s = .next ((State.setReg8 (s.afterLoad page) .a (s.loadVal page)).cost 3))
      ∧ (encode (.ldhAtA8A o) = [0xE0, o] ∧ exec (.ldhAtA8A o) s = .next ((s.store page s.regs.a).cost 3))
      ∧ (encode .ldAAtC = [0xF2] ∧ exec .ldAAtC s = .next ((State.setReg8 (s.afterLoad pageC) .a (s.loadVal pageC)).cost 2))
      ∧ (encode .ldAtCA = [0xE2] ∧ exec .ldAtCA s = .next ((s.store pageC s.regs.a).cost 2))

/-- `LD rr,n16`, `LD (a16),SP` (low byte first, then the high byte at a + 1) and `LD SP,HL` (R106 to R108). -/
def Obligations.SixteenBitLoads : Prop :=
  ∀ (s : State) (p : Pair) (w : Word),
    (encode (.ldPairN16 p w) = [BitVec.ofNat 8 (16 * p.field + 1), loByte w, hiByte w]
        ∧ exec (.ldPairN16 p w) s = .next ((s.setPair p w).cost 3))
      ∧ (encode (.ldAtA16Sp w) = [0x08, loByte w, hiByte w]
        ∧ exec (.ldAtA16Sp w) s = .next (((s.store w (loByte s.regs.sp)).store (w + 1) (hiByte s.regs.sp)).cost 5))
      ∧ (encode .ldSpHl = [0xF9] ∧ exec .ldSpHl s = .next (State.cost { s with regs.sp := s.hl } 2))

/-- PUSH stores the high byte at SP − 1, then the low byte at SP − 2; POP reads the low byte at SP, then the high byte at SP + 1; POP AF keeps only the
upper four bits of F (R109 to R111). -/
def Obligations.PushAndPop : Prop :=
  ∀ (s : State) (q : StackPair),
    let sp := s.regs.sp
    let s1 := State.store { s with regs.sp := sp - 1 } (sp - 1) (hiByte (s.stackPair q))
    let l1 := s.afterLoad sp
    let popped : State := { l1.afterLoad (sp + 1) with regs.sp := sp + 2 }
    let lo := s.loadVal sp
    let hi := l1.loadVal (sp + 1)
    (encode (.push q) = [BitVec.ofNat 8 (0xC5 + 16 * q.field)]
        ∧ exec (.push q) s = .next ((State.store { s1 with regs.sp := sp - 2 } (sp - 2) (loByte (s.stackPair q))).cost 4))
      ∧ encode (.pop q) = [BitVec.ofNat 8 (0xC1 + 16 * q.field)]
      ∧ exec (.pop .bc) s = .next (State.cost { popped with regs := { popped.regs with b := hi, c := lo } } 3)
      ∧ exec (.pop .de) s = .next (State.cost { popped with regs := { popped.regs with d := hi, e := lo } } 3)
      ∧ exec (.pop .hl) s = .next (State.cost { popped with regs := { popped.regs with h := hi, l := lo } } 3)
      ∧ exec (.pop .af) s = .next (State.cost { popped with regs := { popped.regs with a := hi, f := lo &&& 0xF0 } } 3)

/-- A call to any address and the return: with the two stack bytes in unlocked RAM of the block, RET after CALL brings PC and SP back and changes no
other register (R185, R188, R15, R61). -/
def Obligations.ReturnComesBackAfterCall : Prop :=
  ∀ (s : State) (w : Word), MemInv s →
    (ramKey (s.regs.sp - 1)).isSome = true → (ramKey (s.regs.sp - 2)).isSome = true →
    s.vramLocked = false → s.oamLocked = false →
      ∃ t u, exec (.callA16 w) s = .next t ∧ t.regs = { s.regs with pc := w, sp := s.regs.sp - 2 }
        ∧ exec .ret t = .next u ∧ u.regs = s.regs

/-! ### 8-bit arithmetic and logic (41_alu8.md) -/

/-- ADD and ADC in their three operand forms, with the result and the flags as integers (R114 to R119). -/
def Obligations.AdditionInstructions : Prop :=
  ∀ (s : State) (r : Reg8) (n : Byte),
    let sum := fun (t : State) (b : Byte) (c : Nat) =>
      State.setFlags { t with regs.a := BitVec.ofNat 8 (t.regs.a.toNat + b.toNat + c) }
        (decide ((t.regs.a.toNat + b.toNat + c) % 256 = 0)) false
        (decide (t.regs.a.toNat % 16 + b.toNat % 16 + c > 15)) (decide (t.regs.a.toNat + b.toNat + c > 255))
    let c := s.flagC.toNat
    encode (.aluReg .add r) = [opByte 2 0 r.field] ∧ encode (.aluAtHl .add) = [0x86] ∧ encode (.aluN8 .add n) = [0xC6, n]
      ∧ encode (.aluReg .adc r) = [opByte 2 1 r.field] ∧ encode (.aluAtHl .adc) = [0x8E] ∧ encode (.aluN8 .adc n) = [0xCE, n]
      ∧ exec (.aluReg .add r) s = .next ((sum s (s.reg8 r) 0).cost 1)
      ∧ exec (.aluAtHl .add) s = .next ((sum (s.afterLoad s.hl) (s.loadVal s.hl) 0).cost 2)
      ∧ exec (.aluN8 .add n) s = .next ((sum s n 0).cost 2)
      ∧ exec (.aluReg .adc r) s = .next ((sum s (s.reg8 r) c).cost 1)
      ∧ exec (.aluAtHl .adc) s = .next ((sum (s.afterLoad s.hl) (s.loadVal s.hl) c).cost 2)
      ∧ exec (.aluN8 .adc n) s = .next ((sum s n c).cost 2)

/-- SUB, SBC and CP in their three operand forms: A becomes a − b − c modulo 256 (CP leaves A), Z is "the operands are equal" in that sense, H and C are
borrows (R120 to R128). -/
def Obligations.SubtractionInstructions : Prop :=
  ∀ (s : State) (r : Reg8) (n : Byte),
    let flags := fun (t : State) (a b : Byte) (c : Nat) =>
      State.setFlags t (decide ((b.toNat + c) % 256 = a.toNat)) true
        (decide (a.toNat % 16 < b.toNat % 16 + c)) (decide (a.toNat < b.toNat + c))
    let sub := fun (t : State) (b : Byte) (c : Nat) =>
      flags { t with regs.a := t.regs.a - b - BitVec.ofNat 8 c } t.regs.a b c
    let c := s.flagC.toNat
    let h := s.afterLoad s.hl
    let m := s.loadVal s.hl
    encode (.aluReg .sub r) = [opByte 2 2 r.field] ∧ encode (.aluAtHl .sub) = [0x96] ∧ encode (.aluN8 .sub n) = [0xD6, n]
      ∧ encode (.aluReg .sbc r) = [opByte 2 3 r.field] ∧ encode (.aluAtHl .sbc) = [0x9E] ∧ encode (.aluN8 .sbc n) = [0xDE, n]
      ∧ encode (.aluReg .cp r) = [opByte 2 7 r.field] ∧ encode (.aluAtHl .cp) = [0xBE] ∧ encode (.aluN8 .cp n) = [0xFE, n]
      ∧ exec (.aluReg .sub r) s = .next ((sub s (s.reg8 r) 0).cost 1)
      ∧ exec (.aluAtHl .sub) s = .next ((sub h m 0).cost 2)
      ∧ exec (.aluN8 .sub n) s = .next ((sub s n 0).cost 2)
      ∧ exec (.aluReg .sbc r) s = .next ((sub s (s.reg8 r) c).cost 1)
      ∧ exec (.aluAtHl .sbc) s = .next ((sub h m c).cost 2)
      ∧ exec (.aluN8 .sbc n) s = .next ((sub s n c).cost 2)
      ∧ exec (.aluReg .cp r) s = .next ((flags s s.regs.a (s.reg8 r) 0).cost 1)
      ∧ exec (.aluAtHl .cp) s = .next ((flags h s.regs.a m 0).cost 2)
      ∧ exec (.aluN8 .cp n) s = .next ((flags s s.regs.a n 0).cost 2)

/-- AND, XOR and OR in their three operand forms; Z from the result, N and C cleared, H set by AND only (R129 to R137). -/
def Obligations.LogicInstructions : Prop :=
  ∀ (s : State) (r : Reg8) (n : Byte),
    let put := fun (t : State) (v : Byte) (h : Bool) => State.setFlags { t with regs.a := v } (v == 0) false h false
    let h := s.afterLoad s.hl
    let m := s.loadVal s.hl
    let a := s.regs.a
    encode (.aluReg .and r) = [opByte 2 4 r.field] ∧ encode (.aluAtHl .and) = [0xA6] ∧ encode (.aluN8 .and n) = [0xE6, n]
      ∧ encode (.aluReg .xor r) = [opByte 2 5 r.field] ∧ encode (.aluAtHl .xor) = [0xAE] ∧ encode (.aluN8 .xor n) = [0xEE, n]
      ∧ encode (.aluReg .or r) = [opByte 2 6 r.field] ∧ encode (.aluAtHl .or) = [0xB6] ∧ encode (.aluN8 .or n) = [0xF6, n]
      ∧ exec (.aluReg .and r) s = .next ((put s (a &&& s.reg8 r) true).cost 1)
      ∧ exec (.aluAtHl .and) s = .next ((put h (a &&& m) true).cost 2)
      ∧ exec (.aluN8 .and n) s = .next ((put s (a &&& n) true).cost 2)
      ∧ exec (.aluReg .xor r) s = .next ((put s (a ^^^ s.reg8 r) false).cost 1)
      ∧ exec (.aluAtHl .xor) s = .next ((put h (a ^^^ m) false).cost 2)
      ∧ exec (.aluN8 .xor n) s = .next ((put s (a ^^^ n) false).cost 2)
      ∧ exec (.aluReg .or r) s = .next ((put s (a ||| s.reg8 r) false).cost 1)
      ∧ exec (.aluAtHl .or) s = .next ((put h (a ||| m) false).cost 2)
      ∧ exec (.aluN8 .or n) s = .next ((put s (a ||| n) false).cost 2)

/-- INC and DEC of a register and of the byte at HL (one load, then one store): Z, N and H as the rules say, C unchanged (R138 to R141). -/
def Obligations.IncrementAndDecrement : Prop :=
  ∀ (s : State) (r : Reg8),
    let m := s.loadVal s.hl
    encode (.incReg r) = [opByte 0 r.field 4] ∧ encode .incAtHl = [0x34]
      ∧ encode (.decReg r) = [opByte 0 r.field 5] ∧ encode .decAtHl = [0x35]
      ∧ exec (.incReg r) s = .next ((State.setFlags (s.setReg8 r (s.reg8 r + 1)) (s.reg8 r + 1 == 0) false
          (decide ((s.reg8 r).toNat % 16 = 15)) s.flagC).cost 1)
      ∧ exec (.decReg r) s = .next ((State.setFlags (s.setReg8 r (s.reg8 r - 1)) (s.reg8 r - 1 == 0) true
          (decide ((s.reg8 r).toNat % 16 = 0)) s.flagC).cost 1)
      ∧ exec .incAtHl s = .next ((State.setFlags ((s.afterLoad s.hl).store s.hl (m + 1)) (m + 1 == 0) false
          (decide (m.toNat % 16 = 15)) s.flagC).cost 3)
      ∧ exec .decAtHl s = .next ((State.setFlags ((s.afterLoad s.hl).store s.hl (m - 1)) (m - 1 == 0) true
          (decide (m.toNat % 16 = 0)) s.flagC).cost 3)

/-- DAA, CPL, SCF and CCF (R142 to R145). -/
def Obligations.DecimalAdjustAndFlagInstructions : Prop :=
  ∀ s : State,
    let a := s.regs.a
    let low : Bool := s.flagH || (!s.flagN && decide (a.toNat % 16 > 9))
    let high : Bool := s.flagC || (!s.flagN && decide (a.toNat > 0x99))
    let adj : Nat := (if low then 0x06 else 0) + (if high then 0x60 else 0)
    let r : Byte := if s.flagN then a - BitVec.ofNat 8 adj else a + BitVec.ofNat 8 adj
    (encode .daa = [0x27] ∧ exec .daa s = .next ((State.setFlags { s with regs.a := r } (r == 0) s.flagN false high).cost 1))
      ∧ (encode .cpl = [0x2F] ∧ exec .cpl s = .next ((State.setFlags { s with regs.a := a ^^^ 0xFF } s.flagZ true true s.flagC).cost 1))
      ∧ (encode .scf = [0x37] ∧ exec .scf s = .next ((s.setFlags s.flagZ false false true).cost 1))
      ∧ (encode .ccf = [0x3F] ∧ exec .ccf s = .next ((s.setFlags s.flagZ false false (!s.flagC)).cost 1))

/-! ### 16-bit arithmetic (42_alu16.md) -/

/-- INC rr and DEC rr modulo 65536 with no flag, and ADD HL,rr with the carries out of bits 11 and 15 (R146 to R148). -/
def Obligations.SixteenBitArithmetic : Prop :=
  ∀ (s : State) (p : Pair),
    let h := s.hl.toNat
    let v := (s.pair p).toNat
    encode (.incPair p) = [BitVec.ofNat 8 (16 * p.field + 3)] ∧ encode (.decPair p) = [BitVec.ofNat 8 (16 * p.field + 11)]
      ∧ encode (.addHlPair p) = [BitVec.ofNat 8 (16 * p.field + 9)]
      ∧ exec (.incPair p) s = .next ((s.setPair p (BitVec.ofNat 16 (v + 1))).cost 2)
      ∧ exec (.decPair p) s = .next ((s.setPair p (s.pair p - 1)).cost 2)
      ∧ exec (.addHlPair p) s = .next ((State.setFlags (s.setPair .hl (BitVec.ofNat 16 (h + v))) s.flagZ false
          (decide (h % 4096 + v % 4096 > 0xFFF)) (decide (h + v > 0xFFFF))).cost 2)

/-- ADD SP,e8 and LD HL,SP+e8: the signed sum modulo 65536, Z and N cleared, H and C from the unsigned low-byte sum (R149 to R151). -/
def Obligations.SignedOffsetSums : Prop :=
  ∀ (s : State) (e : Byte),
    let r : Word := BitVec.ofInt 16 (s.regs.sp.toNat + e.toInt)
    let flags := fun t : State => State.setFlags t false false
      (decide (s.regs.sp.toNat % 16 + e.toNat % 16 > 15)) (decide (s.regs.sp.toNat % 256 + e.toNat > 255))
    (encode (.addSpE8 e) = [0xE8, e] ∧ exec (.addSpE8 e) s = .next ((flags { s with regs.sp := r }).cost 4))
      ∧ (encode (.ldHlSpE8 e) = [0xF8, e] ∧ exec (.ldHlSpE8 e) s = .next ((flags (s.setPair .hl r)).cost 3))

/-! ### Rotates, shifts and bits (43_bitops.md) -/

/-- RLCA, RRCA, RLA and RRA: Z, N and H cleared, C the bit shifted out (R152 to R155). -/
def Obligations.AccumulatorRotates : Prop :=
  ∀ s : State,
    let a := s.regs.a
    let c : BitVec 1 := BitVec.ofBool s.flagC
    let put := fun (r : Byte) (k : Bool) => State.cost (State.setFlags { s with regs.a := r } false false false k) 1
    (encode .rlca = [0x07] ∧ exec .rlca s = .next (put (a.rotateLeft 1) (a.getLsbD 7)))
      ∧ (encode .rrca = [0x0F] ∧ exec .rrca s = .next (put (a.rotateRight 1) (a.getLsbD 0)))
      ∧ (encode .rla = [0x17] ∧ exec .rla s = .next (put (a.extractLsb' 0 7 ++ c) (a.getLsbD 7)))
      ∧ (encode .rra = [0x1F] ∧ exec .rra s = .next (put (c ++ a.extractLsb' 1 7) (a.getLsbD 0)))

/-- The eight prefixed rotates and shifts in their register and memory forms, with their results bit by bit and the new carry; Z from the result,
N and H cleared (R156). -/
def Obligations.PrefixedRotatesAndShifts : Prop :=
  ∀ (s : State) (op : ShiftOp) (r : Reg8),
    let res := fun v : Byte =>
      match op with
      | .rlc => v.rotateLeft 1
      | .rrc => v.rotateRight 1
      | .rl => v.extractLsb' 0 7 ++ BitVec.ofBool s.flagC
      | .rr => BitVec.ofBool s.flagC ++ v.extractLsb' 1 7
      | .sla => v <<< 1
      | .sra => v.sshiftRight 1
      | .swap => v.extractLsb' 0 4 ++ v.extractLsb' 4 4
      | .srl => v >>> 1
    let out := fun v : Byte =>
      match op with
      | .rlc => v.getLsbD 7
      | .rrc => v.getLsbD 0
      | .rl => v.getLsbD 7
      | .rr => v.getLsbD 0
      | .sla => v.getLsbD 7
      | .sra => v.getLsbD 0
      | .swap => false
      | .srl => v.getLsbD 0
    let flags := fun (t : State) (v : Byte) => State.setFlags t (res v == 0) false false (out v)
    let m := s.loadVal s.hl
    encode (.shiftReg op r) = [0xCB, opByte 0 op.field r.field] ∧ encode (.shiftAtHl op) = [0xCB, opByte 0 op.field 6]
      ∧ exec (.shiftReg op r) s = .next ((flags (s.setReg8 r (res (s.reg8 r))) (s.reg8 r)).cost 2)
      ∧ exec (.shiftAtHl op) s = .next ((flags ((s.afterLoad s.hl).store s.hl (res m)) m).cost 4)

/-- BIT, RES and SET on a register and on the byte at HL: BIT writes Z, N and H and stores nothing; RES and SET clear and set exactly bit b and write
no flag (R173 to R178). -/
def Obligations.BitInstructions : Prop :=
  ∀ (s : State) (b : Fin 8) (r : Reg8),
    let mask : Byte := BitVec.twoPow 8 b.val
    let m := s.loadVal s.hl
    let h := s.afterLoad s.hl
    encode (.bitBR b r) = [0xCB, opByte 1 b.val r.field] ∧ encode (.bitBAtHl b) = [0xCB, opByte 1 b.val 6]
      ∧ encode (.resBR b r) = [0xCB, opByte 2 b.val r.field] ∧ encode (.resBAtHl b) = [0xCB, opByte 2 b.val 6]
      ∧ encode (.setBR b r) = [0xCB, opByte 3 b.val r.field] ∧ encode (.setBAtHl b) = [0xCB, opByte 3 b.val 6]
      ∧ exec (.bitBR b r) s = .next ((s.setFlags (!(s.reg8 r).getLsbD b.val) false true s.flagC).cost 2)
      ∧ exec (.bitBAtHl b) s = .next ((h.setFlags (!m.getLsbD b.val) false true s.flagC).cost 3)
      ∧ exec (.resBR b r) s = .next ((s.setReg8 r (s.reg8 r &&& ~~~mask)).cost 2)
      ∧ exec (.resBAtHl b) s = .next ((h.store s.hl (m &&& ~~~mask)).cost 4)
      ∧ exec (.setBR b r) s = .next ((s.setReg8 r (s.reg8 r ||| mask)).cost 2)
      ∧ exec (.setBAtHl b) s = .next ((h.store s.hl (m ||| mask)).cost 4)

/-- The prefix, which the model keeps as an instruction of its own (log 9): it fetches one byte more and is the instruction that this byte
selects (R75). -/
def Obligations.PrefixSelectsCbInstruction : Prop :=
  ∀ s : State,
    encode .prefixCb = [0xCB] ∧ exec .prefixCb s = exec (decodeCb s.fetchVal) s.afterFetch
      ∧ ∃ t, exec .prefixCb s = .next t

/-! ### Jumps, calls, returns (44_control.md) -/

/-- JP, JR and their conditional forms, and JP HL, with the cost of each case; the conditions NZ, Z, NC and C have the fields 0 to 3 and test bits 7 and 4 of F
(R180 to R184, R179, R79, R25). -/
def Obligations.Jumps : Prop :=
  ∀ (s : State) (cc : Cond) (w : Word) (e : Byte),
    let holds : Bool := match cc with
      | .nz => !s.regs.f.getLsbD 7
      | .z => s.regs.f.getLsbD 7
      | .nc => !s.regs.f.getLsbD 4
      | .c => s.regs.f.getLsbD 4
    let y : Nat := match cc with
      | .nz => 0
      | .z => 1
      | .nc => 2
      | .c => 3
    let go := fun (t : Word) (m : Nat) => State.cost { s with regs.pc := t } m
    let near : Word := BitVec.ofInt 16 (s.regs.pc.toNat + e.toInt)
    (encode (.jpA16 w) = [0xC3, loByte w, hiByte w] ∧ exec (.jpA16 w) s = .next (go w 4))
      ∧ (encode (.jpCond cc w) = [BitVec.ofNat 8 (0xC2 + 8 * y), loByte w, hiByte w]
        ∧ exec (.jpCond cc w) s = .next (if holds then go w 4 else s.cost 3))
      ∧ (encode .jpHl = [0xE9] ∧ exec .jpHl s = .next (go s.hl 1))
      ∧ (encode (.jrE8 e) = [0x18, e] ∧ exec (.jrE8 e) s = .next (go near 3))
      ∧ (encode (.jrCond cc e) = [BitVec.ofNat 8 (0x20 + 8 * y), e]
        ∧ exec (.jrCond cc e) s = .next (if holds then go near 3 else s.cost 2))

/-- CALL, CALL cc and RST push PC, the address after the instruction, high byte first, and go to their target (R185 to R187, with the conditions of R179). -/
def Obligations.CallsAndRestarts : Prop :=
  ∀ (s : State) (cc : Cond) (w : Word) (n : Fin 8),
    let holds : Bool := match cc with
      | .nz => !s.regs.f.getLsbD 7
      | .z => s.regs.f.getLsbD 7
      | .nc => !s.regs.f.getLsbD 4
      | .c => s.regs.f.getLsbD 4
    let y : Nat := match cc with
      | .nz => 0
      | .z => 1
      | .nc => 2
      | .c => 3
    let sp := s.regs.sp
    let s1 := State.store { s with regs.sp := sp - 1 } (sp - 1) (hiByte s.regs.pc)
    let pushed := State.store { s1 with regs.sp := sp - 2 } (sp - 2) (loByte s.regs.pc)
    (encode (.callA16 w) = [0xCD, loByte w, hiByte w] ∧ exec (.callA16 w) s = .next (State.cost { pushed with regs.pc := w } 6))
      ∧ (encode (.callCond cc w) = [BitVec.ofNat 8 (0xC4 + 8 * y), loByte w, hiByte w]
        ∧ exec (.callCond cc w) s = .next (if holds then State.cost { pushed with regs.pc := w } 6 else s.cost 3))
      ∧ (encode (.rst n) = [BitVec.ofNat 8 (0xC7 + 8 * n.val)]
        ∧ exec (.rst n) s = .next (State.cost { pushed with regs.pc := BitVec.ofNat 16 (8 * n.val) } 4))

/-- RET, RET cc and RETI pop PC, the low byte at SP; RETI also sets IME at once and leaves the EI delay (R188 to R190, with the conditions of R179). -/
def Obligations.Returns : Prop :=
  ∀ (s : State) (cc : Cond),
    let holds : Bool := match cc with
      | .nz => !s.regs.f.getLsbD 7
      | .z => s.regs.f.getLsbD 7
      | .nc => !s.regs.f.getLsbD 4
      | .c => s.regs.f.getLsbD 4
    let y : Nat := match cc with
      | .nz => 0
      | .z => 1
      | .nc => 2
      | .c => 3
    let sp := s.regs.sp
    let l1 := s.afterLoad sp
    let popped : State :=
      { l1.afterLoad (sp + 1) with regs := { s.regs with sp := sp + 2, pc := joinBytes (l1.loadVal (sp + 1)) (s.loadVal sp) } }
    (encode .ret = [0xC9] ∧ exec .ret s = .next (popped.cost 4))
      ∧ (encode (.retCond cc) = [BitVec.ofNat 8 (0xC0 + 8 * y)]
        ∧ exec (.retCond cc) s = .next (if holds then popped.cost 5 else s.cost 2))
      ∧ (encode .reti = [0xD9] ∧ exec .reti s = .next (State.cost { popped with cpu.ime := true } 4))

/-! ### System instructions (45_system.md) -/

/-- NOP, DI, EI, HALT and the halting sentinel, the resolution of a delayed EI, the wake from halt, and the services of the pseudo-opcodes: `INT(k)` clears its IF bit and goes to
0x40 + 8k, `INT_CANCELLED` goes to 0 and clears no bit (R191 to R197, R206, R207). That the pseudo-opcodes are instructions of `exec` is log 10. -/
def Obligations.SystemInstructions : Prop :=
  ∀ s : State,
    (encode .nop = [0x00] ∧ exec .nop s = .next (s.cost 1))
      ∧ (encode .di = [0xF3] ∧ exec .di s = .next (State.cost { s with cpu := { s.cpu with ime := false, eiDelay := 0 } } 1))
      ∧ (encode .ei = [0xFB] ∧ (s.cpu.eiDelay = 0 → exec .ei s = .next (State.cost { s with cpu.eiDelay := 2 } 1))
        ∧ (s.cpu.eiDelay ≠ 0 → exec .ei s = .next (s.cost 1)))
      ∧ ((s.cpu.eiDelay = 0 → resolveEi s = s)
        ∧ (s.cpu.eiDelay = 1 → resolveEi s = { s with cpu := { s.cpu with eiDelay := 0, ime := true } })
        ∧ (∀ d, s.cpu.eiDelay = d + 2 → resolveEi s = { s with cpu.eiDelay := d + 1 }))
      ∧ (encode .halt = [0x76]
        ∧ (s.cpu.ime = false → s.pending ≠ 0 → exec .halt s = .next (State.cost { s with cpu.haltBug := true } 1))
        ∧ (s.cpu.ime = true ∨ s.pending = 0 → exec .halt s = .next (State.cost { s with cpu.halted := true } 1)))
      ∧ exec .halting s = .next (s.cost 1)
      ∧ (s.dispatches = false → s.cpu.halted = true → s.pending = 0 → selectOpcode s = (.halting, s))
      ∧ (s.cpu.ime = false → s.cpu.halted = true → s.pending ≠ 0 → selectOpcode s = fetchOpcode { s with cpu.halted := false })
      ∧ (s.cpu.ime = true → s.pending ≠ 0 → selectOpcode s = interruptEntry s)
      ∧ (∀ k, exec (.interrupt k) s = .next (State.cost
          { s with irq.ifl := s.irq.ifl &&& ~~~(1#5 <<< irqBit k), regs.pc := BitVec.ofNat 16 (0x40 + 8 * irqBit k) } 5))
      ∧ exec .intCancelled s = .next (State.cost { s with regs.pc := 0 } 5)
      ∧ irqBit .vblank = 0 ∧ irqBit .stat = 1 ∧ irqBit .timer = 2 ∧ irqBit .serial = 3 ∧ irqBit .joypad = 4

/-- STOP is refused and the 11 illegal opcodes fault, on every path, with the instruction's address; every other instruction
completes, in every state (R199, R200, R201). -/
def Obligations.OnlyStopAndIllegalOpcodesStop : Prop :=
  ∀ (s : State) (n : Byte),
    (encode (.stop n) = [0x10, n] ∧ exec (.stop n) s = .refused (.stopNotModelled s.cpu.instrAddr))
      ∧ (∀ b ∈ [(0xD3 : Byte), 0xDB, 0xDD, 0xE3, 0xE4, 0xEB, 0xEC, 0xED, 0xF4, 0xFC, 0xFD],
          ∃ i, decode [b] = .ok (i, []) ∧ encode i = [b] ∧ exec i s = .fault (.unknownOpcode s.cpu.instrAddr b s.regs.pc))
      ∧ (∀ i : Instr, i.stops = true → ∀ t, exec i s ≠ .next t)
      ∧ (∀ i : Instr, i.stops = false → ∃ t, exec i s = .next t)

/-! ### Frames over all instructions -/

/-- Every instruction that completes costs the M-cycles of its row of the opcode table, by the case of its condition (R241, R252). That the prefix is an
instruction of its own, which costs what the instruction it selects costs, is the model's reading of log 9. -/
def Obligations.CostsAreThoseOfTheTable : Prop :=
  ∀ (i : Instr) (s t : State), exec i s = .next t →
    (i ≠ .prefixCb → t.cpu.cpuWait = 4 * i.mCycles (s.taken i) - 1)
      ∧ (i = .prefixCb → t.cpu.cpuWait = 4 * (decodeCb s.fetchVal).mCycles true - 1)

/-- Every flag is as the `Flags:` line of the instruction's rule says: unchanged, 0, 1, or written (R16). -/
def Obligations.FlagsAreThoseOfTheRules : Prop :=
  ∀ (i : Instr) (s t : State), exec i s = .next t →
    i.flagEffects.z.agrees s.flagZ t.flagZ ∧ i.flagEffects.n.agrees s.flagN t.flagN
      ∧ i.flagEffects.h.agrees s.flagH t.flagH ∧ i.flagEffects.c.agrees s.flagC t.flagC
      ∧ (t.regs.f &&& 0x0F = s.regs.f &&& 0x0F ∨ t.regs.f &&& 0x0F = 0)

/-- Every register stays but the destinations of the instruction, SP for the instructions of the stack and of SP, PC for the control transfers; the rest of the
control state changes only by DI, EI, HALT and RETI. -/
def Obligations.RegisterFrame : Prop :=
  ∀ (i : Instr) (s t : State), exec i s = .next t →
    (∀ r, r ∉ i.destRegs → t.reg8 r = s.reg8 r)
      ∧ (i.movesSp = false → t.regs.sp = s.regs.sp)
      ∧ (i.movesPc = false → t.regs.pc = s.regs.pc)
      ∧ (i ≠ .di → i ≠ .reti → t.cpu.ime = s.cpu.ime)
      ∧ (i ≠ .di → i ≠ .ei → t.cpu.eiDelay = s.cpu.eiDelay)
      ∧ (i ≠ .halt → t.cpu.halted = s.cpu.halted ∧ t.cpu.haltBug = s.cpu.haltBug)
      ∧ t.cpu.instrAddr = s.cpu.instrAddr ∧ t.cpu.opcode = s.cpu.opcode
      ∧ t.cpu.fault = s.cpu.fault ∧ t.cpu.refused = s.cpu.refused

/-- Every byte of the block's RAM stays but those behind the addresses the instruction stores to; every address that none of these stores reaches reads as before on the bypass
path, but IF after an interrupt service; where all of the stores go to RAM of the block, no device register changes but IF by that service, and the cartridge, its
RAM and the boot overlay stay; no instruction changes an image, a parameter, an output or the tick count. The clause about the bypass path rests on choices of the
model: what it reads at registers that store no bit (log 13) and in the banked windows of the cartridge (log 4). -/
def Obligations.MemoryAndDeviceFrame : Prop :=
  ∀ (i : Instr) (s t : State), MemInv s → exec i s = .next t →
    (∀ k, (∀ a ∈ storesTo i s, ramKey a ≠ some k) → t.ramByte k = s.ramByte k)
      ∧ (∀ b, (∀ a ∈ storesTo i s, ¬ storeReaches a b) → (∀ k, i = .interrupt k → b ≠ 0xFF0F) → t.peek b = s.peek b)
      ∧ SameFixed s t ∧ t.out = s.out ∧ t.ticks = s.ticks
      ∧ ((∀ a ∈ storesTo i s, (ramKey a).isSome = true) →
          ((∀ k, i ≠ .interrupt k) → t.irq = s.irq) ∧ t.irq.ie = s.irq.ie
            ∧ t.timer = s.timer ∧ t.lcd = s.lcd ∧ t.ppu = s.ppu ∧ t.dma = s.dma ∧ t.cart = s.cart
            ∧ t.bus.bootOverlay = s.bus.bootOverlay ∧ t.bus.cartRam = s.bus.cartRam)

/-! ### Registers (10_state.md) -/

/-- The register file: each register name of the field of R77 is the register of that name; a register reads back what was written and no other changes; a pair of the tables
of R78 and its halves are the same storage, the first-named half the high byte; AF and F read back with the low four bits zero, and no tick sets any of them; the flags Z, N,
H and C are bits 7 to 4 of F, and the conditions test Z and C (R19 to R22, R25, R77 to R79, R179). -/
def Obligations.RegisterRoundTrip : Prop :=
  (∀ (s : State) (r : Reg8) (p : Pair) (q : StackPair) (v : Byte) (w : Word),
    (s.setReg8 r v).reg8 r = v ∧ (∀ x, x ≠ r → (s.setReg8 r v).reg8 x = s.reg8 x) ∧ (s.setReg8 r v).regs.f = s.regs.f
      ∧ (s.setPair p w).pair p = w
      ∧ (s.setStackPair q w).stackPair q = (if q = .af then w &&& 0xFFF0 else w)
      ∧ (s.setF v).regs.f = v &&& 0xF0
      ∧ s.bc.toNat = s.regs.b.toNat * 256 + s.regs.c.toNat ∧ s.de.toNat = s.regs.d.toNat * 256 + s.regs.e.toNat
      ∧ s.hl.toNat = s.regs.h.toNat * 256 + s.regs.l.toNat
      ∧ (s.stackPair .af).toNat = s.regs.a.toNat * 256 + s.regs.f.toNat
      ∧ (s.setPair .bc w).regs = { s.regs with b := hiByte w, c := loByte w }
      ∧ (s.setPair .de w).regs = { s.regs with d := hiByte w, e := loByte w }
      ∧ (s.setPair .hl w).regs = { s.regs with h := hiByte w, l := loByte w }
      ∧ (s.setStackPair .af w).regs = { s.regs with a := hiByte w, f := loByte w &&& 0xF0 })
    ∧ (∀ (s : State) (v : Byte) (w : Word),
      (s.reg8 .b = s.regs.b ∧ s.setReg8 .b v = { s with regs.b := v } ∧ Reg8.b.field = 0)
        ∧ (s.reg8 .c = s.regs.c ∧ s.setReg8 .c v = { s with regs.c := v } ∧ Reg8.c.field = 1)
        ∧ (s.reg8 .d = s.regs.d ∧ s.setReg8 .d v = { s with regs.d := v } ∧ Reg8.d.field = 2)
        ∧ (s.reg8 .e = s.regs.e ∧ s.setReg8 .e v = { s with regs.e := v } ∧ Reg8.e.field = 3)
        ∧ (s.reg8 .h = s.regs.h ∧ s.setReg8 .h v = { s with regs.h := v } ∧ Reg8.h.field = 4)
        ∧ (s.reg8 .l = s.regs.l ∧ s.setReg8 .l v = { s with regs.l := v } ∧ Reg8.l.field = 5)
        ∧ (s.reg8 .a = s.regs.a ∧ s.setReg8 .a v = { s with regs.a := v } ∧ Reg8.a.field = 7)
        ∧ (s.pair .bc = s.bc ∧ s.stackPair .bc = s.bc ∧ s.setStackPair .bc w = s.setPair .bc w ∧ Pair.bc.field = 0 ∧ StackPair.bc.field = 0)
        ∧ (s.pair .de = s.de ∧ s.stackPair .de = s.de ∧ s.setStackPair .de w = s.setPair .de w ∧ Pair.de.field = 1 ∧ StackPair.de.field = 1)
        ∧ (s.pair .hl = s.hl ∧ s.stackPair .hl = s.hl ∧ s.setStackPair .hl w = s.setPair .hl w ∧ Pair.hl.field = 2 ∧ StackPair.hl.field = 2)
        ∧ (s.pair .sp = s.regs.sp ∧ s.setPair .sp w = { s with regs.sp := w } ∧ Pair.sp.field = 3 ∧ StackPair.af.field = 3))
    ∧ (∀ (s : State) (z n h c : Bool),
      let f := s.regs.f.toNat
      s.flagZ = decide (f / 128 % 2 = 1) ∧ s.flagN = decide (f / 64 % 2 = 1) ∧ s.flagH = decide (f / 32 % 2 = 1) ∧ s.flagC = decide (f / 16 % 2 = 1)
        ∧ s.setFlags z n h c = { s with regs.f := BitVec.ofNat 8 (128 * z.toNat + 64 * n.toNat + 32 * h.toNat + 16 * c.toNat) }
        ∧ (s.cond .nz = !s.flagZ ∧ Cond.nz.field = 0) ∧ (s.cond .z = s.flagZ ∧ Cond.z.field = 1)
        ∧ (s.cond .nc = !s.flagC ∧ Cond.nc.field = 2) ∧ (s.cond .c = s.flagC ∧ Cond.c.field = 3))
    ∧ ∀ s t : State, FlagInv s → step s = .next t → FlagInv t

/-- Loads of the memory-mapped registers return the stored bits with the read-as-one bits set, and a store writes the bits that the table lists and nothing else; LY and STAT bits 2:0 are
not written, a store to DIV zeroes the counter, a store to DMA keeps its value, and a store to BOOT of a non-zero byte clears the overlay (R27 to R42). What stores to DIV, TIMA,
TMA and TAC do to the timer is `TimerStoreWindows`, what a store to LCDC does to the pipeline is `LcdPowerToggle`. -/
def Obligations.RegisterAddressesAndMasks : Prop :=
  ∀ (s : State) (v : Byte),
    ((s.loadVal 0xFF04).toNat = s.timer.counter.toNat / 256 ∧ (s.store 0xFF04 v).timer.counter = 0)
      ∧ s.loadVal 0xFF05 = s.timer.tima
      ∧ (s.loadVal 0xFF06 = s.timer.tma ∧ (s.store 0xFF06 v).timer.tma = v)
      ∧ ((s.loadVal 0xFF07).toNat = 0xF8 + s.timer.tac.toNat ∧ (s.store 0xFF07 v).timer.tac.toNat = v.toNat % 8)
      ∧ (∀ a ∈ [(0xFF04 : Word), 0xFF05, 0xFF06, 0xFF07], s.store a v = { s with timer := (s.store a v).timer })
      ∧ ((s.loadVal 0xFF0F).toNat = 0xE0 + s.irq.ifl.toNat ∧ s.store 0xFF0F v = { s with irq.ifl := v.extractLsb' 0 5 })
      ∧ (s.loadVal 0xFFFF = s.irq.ie ∧ s.store 0xFFFF v = { s with irq.ie := v })
      ∧ (s.loadVal 0xFF40 = s.lcd.lcdc ∧ s.store 0xFF40 v = { s with lcd.lcdc := v, ppu := (s.store 0xFF40 v).ppu })
      ∧ ((s.loadVal 0xFF41).toNat = 0x80 + 8 * s.lcd.statEn.toNat + 4 * (s.ppu.reportedLy == s.lcd.lyc).toNat + s.ppu.reportedMode
          ∧ s.store 0xFF41 v = { s with lcd.statEn := v.extractLsb' 3 4 })
      ∧ (s.loadVal 0xFF42 = s.lcd.scy ∧ s.store 0xFF42 v = { s with lcd.scy := v })
      ∧ (s.loadVal 0xFF43 = s.lcd.scx ∧ s.store 0xFF43 v = { s with lcd.scx := v })
      ∧ (s.loadVal 0xFF44 = s.ppu.reportedLy ∧ s.store 0xFF44 v = s)
      ∧ (s.loadVal 0xFF45 = s.lcd.lyc ∧ s.store 0xFF45 v = { s with lcd.lyc := v })
      ∧ (s.loadVal 0xFF46 = s.dma.reg ∧ (s.store 0xFF46 v).dma.reg = v ∧ s.store 0xFF46 v = { s with dma := (s.store 0xFF46 v).dma })
      ∧ (s.loadVal 0xFF47 = s.lcd.bgp ∧ s.store 0xFF47 v = { s with lcd.bgp := v })
      ∧ (s.loadVal 0xFF48 = s.lcd.obp0 ∧ s.store 0xFF48 v = { s with lcd.obp0 := v })
      ∧ (s.loadVal 0xFF49 = s.lcd.obp1 ∧ s.store 0xFF49 v = { s with lcd.obp1 := v })
      ∧ (s.loadVal 0xFF4A = s.lcd.wy ∧ s.store 0xFF4A v = { s with lcd.wy := v })
      ∧ (s.loadVal 0xFF4B = s.lcd.wx ∧ s.store 0xFF4B v = { s with lcd.wx := v })
      ∧ (s.loadVal 0xFF50 = 0xFF ∧ s.store 0xFF50 v = (if v = 0 then s else { s with bus.bootOverlay := false }))

/-! ### Memory (20_memory.md) -/

/-- A byte stored in unlocked RAM of the block reads back, and an address that does not share its byte reads as before (R53, R54). -/
def Obligations.RamReadsBackWhatWasStored : Prop :=
  ∀ (s : State) (a b : Word) (k : Nat) (v : Byte), MemInv s →
    ramKey a = some k → s.vramLocked = false → s.oamLocked = false →
      (s.store a v).loadVal a = v ∧ (ramKey b ≠ some k → (s.store a v).loadVal b = s.loadVal b)

/-- The regions: each range of addresses decodes to the region and the offset of the table, the boot overlay first, and the offset lies inside the region's size; work RAM and high RAM load
and store their own byte; echo addresses answer as the work RAM 0x2000 below them, for loads and for stores; and outside the echo no two addresses share a byte of RAM (R49, R50,
R53, R54). -/
def Obligations.RegionsAndEcho : Prop :=
  (∀ (a : Word) (ov : Bool),
      let n := a.toNat
      (ov = true → n ≤ 0xFF → busDecode a ov = (.boot, n))
        ∧ (ov = false ∨ 0x100 ≤ n → n ≤ 0x3FFF → busDecode a ov = (.romA, n))
        ∧ (0x4000 ≤ n → n ≤ 0x7FFF → busDecode a ov = (.romB, n - 0x4000))
        ∧ (0x8000 ≤ n → n ≤ 0x9FFF → busDecode a ov = (.vram, n - 0x8000))
        ∧ (0xA000 ≤ n → n ≤ 0xBFFF → busDecode a ov = (.eram, n - 0xA000))
        ∧ (0xC000 ≤ n → n ≤ 0xCFFF → busDecode a ov = (.wram0, n - 0xC000))
        ∧ (0xD000 ≤ n → n ≤ 0xDFFF → busDecode a ov = (.wram1, n - 0xD000))
        ∧ (0xE000 ≤ n → n ≤ 0xEFFF → busDecode a ov = (.wram0, n - 0xE000))
        ∧ (0xF000 ≤ n → n ≤ 0xFDFF → busDecode a ov = (.wram1, n - 0xF000))
        ∧ (0xFE00 ≤ n → n ≤ 0xFE9F → busDecode a ov = (.oam, n - 0xFE00))
        ∧ (0xFEA0 ≤ n → n ≤ 0xFEFF → busDecode a ov = (.unmapped, n - 0xFEA0))
        ∧ (0xFF00 ≤ n → n ≤ 0xFF7F → busDecode a ov = (.io, n - 0xFF00))
        ∧ (0xFF80 ≤ n → n ≤ 0xFFFE → busDecode a ov = (.hram, n - 0xFF80))
        ∧ (n = 0xFFFF → busDecode a ov = (.ie, 0))
        ∧ (busDecode a ov).2 < (match (busDecode a ov).1 with
          | .boot => 256 | .romA => 16384 | .romB => 16384 | .vram => 8192 | .eram => 8192 | .wram0 => 4096 | .wram1 => 4096
          | .oam => 160 | .unmapped => 96 | .io => 128 | .hram => 127 | .ie => 1))
    ∧ (∀ (s : State) (a : Word) (v : Byte), (0xC000 ≤ a.toNat ∧ a.toNat ≤ 0xDFFF) ∨ (0xFF80 ≤ a.toNat ∧ a.toNat ≤ 0xFFFE) →
        s.loadVal a = s.ramByte a.toNat ∧ s.store a v = s.setRamByte a.toNat v ∧ s.afterLoad a = s)
    ∧ (∀ (s : State) (a : Word) (v : Byte), 0xE000 ≤ a.toNat → a.toNat ≤ 0xFDFF →
        s.loadVal a = s.loadVal (a - 0x2000) ∧ s.store a v = s.store (a - 0x2000) v ∧ s.afterLoad a = s)
    ∧ (∀ a b : Word, (ramKey a).isSome = true → ramKey a = ramKey b →
        a = b ∨ a = b + 0x2000 ∨ b = a + 0x2000)

/-- The access lock: with the parameter on, VRAM in DRAW and OAM in OAM scan, DRAW or a DMA read 0xFF and ignore stores; with the parameter off nothing is locked. Unmapped addresses and unused
I/O addresses read 0xFF and ignore stores (R57, R58). -/
def Obligations.LockedAndAbsentAddressesReadOnes : Prop :=
  ∀ (s : State) (a : Word) (v : Byte),
    (0x8000 ≤ a.toNat → a.toNat ≤ 0x9FFF →
        (s.params.accessLock = true ∧ s.ppu.on = true ∧ s.ppu.mode = .draw → s.loadVal a = 0xFF ∧ s.store a v = s)
          ∧ (¬(s.params.accessLock = true ∧ s.ppu.on = true ∧ s.ppu.mode = .draw) →
              s.loadVal a = s.ramByte a.toNat ∧ s.store a v = s.setRamByte a.toNat v))
      ∧ (0xFE00 ≤ a.toNat → a.toNat ≤ 0xFE9F →
        (s.params.accessLock = true ∧ ((s.ppu.on = true ∧ (s.ppu.mode = .oamScan ∨ s.ppu.mode = .draw)) ∨ s.dma.active = true) →
            s.loadVal a = 0xFF ∧ s.store a v = s)
          ∧ (¬(s.params.accessLock = true ∧ ((s.ppu.on = true ∧ (s.ppu.mode = .oamScan ∨ s.ppu.mode = .draw)) ∨ s.dma.active = true)) →
              s.loadVal a = s.ramByte a.toNat ∧ s.store a v = s.setRamByte a.toNat v))
      ∧ ((0xFEA0 ≤ a.toNat ∧ a.toNat ≤ 0xFEFF) ∨ a.toNat = 0xFF03 ∨ (0xFF08 ≤ a.toNat ∧ a.toNat ≤ 0xFF0E) ∨ a.toNat = 0xFF15
          ∨ a.toNat = 0xFF1F ∨ (0xFF27 ≤ a.toNat ∧ a.toNat ≤ 0xFF2F) ∨ (0xFF4C ≤ a.toNat ∧ a.toNat ≤ 0xFF4F)
          ∨ (0xFF51 ≤ a.toNat ∧ a.toNat ≤ 0xFF7F) →
        s.loadVal a = 0xFF ∧ s.store a v = s ∧ s.afterLoad a = s)
      ∧ (0xA000 ≤ a.toNat → a.toNat ≤ 0xBFFF → ¬(s.cart.answers.ramPresent = true ∧ s.cart.answers.ramEnabled = true) →
        s.loadVal a = 0xFF ∧ s.store a v = s)
      ∧ (s.bus.bootOverlay = true → a.toNat ≤ 0xFF → s.loadVal a = Memory.read 0xFF s.bus.bootRom a.toNat)

/-- The fixed parts of the machine: no step changes an image, a parameter, the strategy of the cartridge controller or the source of the environment's draws, none sets the boot overlay once it is off; a step
adds one to the tick count and at most one record and one pixel to the outputs, which stand newest first (log 11). That no step changes the cartridge image rests, where the DMA index is out of its
range, on the model's choice that a Poke leaves that image alone (log 13). A store to a ROM address changes nothing with the default controller, only the bank of the controller of L1-10, only the
controller's state, to what the store hook gives for the address and the byte, with a controller record, written as expressions or from any functions over finitely many states (log 20), and with a
controller of which nothing is given its answers, which are then free values (log 4) (R9, R42, R51, R60, R242). -/
def Obligations.ImagesOverlayAndOutputsOverAStep : Prop :=
  (∀ s t : State, step s = .next t →
      SameFixed s t ∧ t.ticks = s.ticks + 1
        ∧ (t.bus.bootOverlay = true → s.bus.bootOverlay = true)
        ∧ (t.out.trace = s.out.trace ∨ ∃ r, t.out.trace = r :: s.out.trace)
        ∧ (t.out.image = s.out.image ∨ ∃ px, t.out.image = px :: s.out.image))
    ∧ (∀ (s : State) (a : Word) (v : Byte), a.toNat ≤ 0x7FFF → s.cart = .romOnly → s.store a v = s)
    ∧ (∀ (s : State) (a : Word) (v : Byte) (b : BitVec 5), a.toNat ≤ 0x7FFF → s.cart = .bank5 b →
        let bank : BitVec 5 := if v.setWidth 5 = 0 then 1 else v.setWidth 5
        s.store a v = { s with cart := .bank5 (if 0x2000 ≤ a.toNat ∧ a.toNat ≤ 0x3FFF then bank else b) })
    ∧ (∀ (s : State) (a : Word) (v : Byte) (r : CartRecord) (st : Nat), a.toNat ≤ 0x7FFF → s.cart = .given r st →
        s.store a v = { s with cart := .given r (r.store.eval st a v) })
    ∧ (∀ (s : State) (a : Word) (v : Byte) (n : Nat) (answers : Nat → CartAnswers) (hook : Nat → Word → Byte → Nat) (st : Nat),
        let r := CartRecord.ofFunctions n answers hook
        a.toNat ≤ 0x7FFF → st ≤ n → s.cart = .given r st →
          s.cart.answers = answers st ∧ s.store a v = { s with cart := .given r (hook st a v) })
    ∧ (∀ (s : State) (a : Word) (v : Byte) (x : CartAnswers), a.toNat ≤ 0x7FFF → s.cart = .external x →
        s.store a v = { s with cart := .external (Config.cartAnswers s.env.draws x a v), env.draws := s.env.draws + 1 })

/-! ### Interrupt requests (60_exceptions.md part 2) -/

/-- A device's request is `SetBit(0xFF0F, k)` on the bypass path; no device clears an IF bit (with the DMA
engine's index in its range), and an instruction changes IF only by a store to 0xFF0F or as the
service of an interrupt, which clears its own bit and no other (R203, R206, R56). -/
def Obligations.RequestsStayUntilCleared : Prop :=
  (∀ (s : State) (k : IrqSource), s.requestIrq k = s.setBit 0xFF0F ⟨irqBit k, by cases k <;> decide⟩)
    ∧ (∀ (s : State) (j : Nat), DmaInv s → s.irq.ifl.getLsbD j = true → (devices s).irq.ifl.getLsbD j = true)
    ∧ (∀ (i : Instr) (s t : State), exec i s = .next t → 0xFF0F ∉ storesTo i s → (∀ k, i ≠ .interrupt k) → t.irq.ifl = s.irq.ifl)
    ∧ (∀ (s : State) (k : IrqSource), ∃ t, exec (.interrupt k) s = .next t ∧ t.irq.ie = s.irq.ie
        ∧ t.irq.ifl.getLsbD (irqBit k) = false ∧ ∀ j, j ≠ irqBit k → t.irq.ifl.getLsbD j = s.irq.ifl.getLsbD j)

/-- IME changes in a tick only where a cycle starts and the EI delay runs out there, or the cycle is DI, RETI or an interrupt entry (R192, R194, R205, R190). -/
def Obligations.OnlyFourEventsChangeIme : Prop :=
  ∀ s t : State, step s = .next t → t.cpu.ime ≠ s.cpu.ime →
    s.cpu.cpuWait = 0
      ∧ (s.cpu.eiDelay = 1 ∨ (beginCycle s).dispatches = true ∨ (fetchInstr s).1 = .di ∨ (fetchInstr s).1 = .reti)

/-! ### Timer (60_exceptions.md part 4) -/

/-- With no store and no overflow, TIMA counts the falls of the selected counter bit: after n ticks it has grown by the number of multiples of the period
2^(selbit + 1) that the counter has passed (R214, R215, R31). -/
def Obligations.TimaCountsFallingEdges : Prop :=
  ∀ (s : State) (n : Nat),
    let period := 2 ^ (s.timer.selBit + 1)
    let falls := (s.timer.counter.toNat + n) / period - s.timer.counter.toNat / period
    s.timer.phase = .idle → s.timer.signal = s.timer.signalNow → s.timer.tac.getLsbD 2 = true →
    s.timer.tima.toNat + falls ≤ 255 →
      (timerTick^[n] s).timer.tima.toNat = s.timer.tima.toNat + falls
        ∧ (timerTick^[n] s).timer.counter = s.timer.counter + BitVec.ofNat 16 n
        ∧ (timerTick^[n] s).irq = s.irq

/-- The overflow: a fall with TIMA 0xFF makes TIMA 0 and begins phase A; TIMA stays 0 for 4 ticks, then it is TMA, the Timer request is raised, and phase B
lasts 4 ticks, after which the timer is idle with TIMA still TMA (R214, R215). -/
def Obligations.OverflowReloadsAfterFourTicks : Prop :=
  ∀ s : State,
    let period := 2 ^ (s.timer.selBit + 1)
    s.timer.phase = .idle → s.timer.signal = s.timer.signalNow → s.timer.tac.getLsbD 2 = true → s.timer.tima = 0xFF →
    (s.timer.counter.toNat + 1) % period = 0 →
      (∀ j < 4, (timerTick^[1 + j] s).timer.tima = 0 ∧ (timerTick^[1 + j] s).timer.phase = .a (4 - j) ∧ (timerTick^[1 + j] s).irq = s.irq)
        ∧ (∀ j < 4, (timerTick^[5 + j] s).timer.tima = s.timer.tma ∧ (timerTick^[5 + j] s).timer.phase = .b (4 - j)
            ∧ (timerTick^[5 + j] s).irq = { s.irq with ifl := s.irq.ifl ||| 4 })
        ∧ (timerTick^[9] s).timer.phase = .idle ∧ (timerTick^[9] s).timer.tima = s.timer.tma
        ∧ (timerTick^[9] s).irq = { s.irq with ifl := s.irq.ifl ||| 4 }

/-- The write windows of the timer: a TIMA store cancels phase A and is lost in phase B; a TMA store in phase B also lands in TIMA; a DIV store zeroes the counter; a DIV or TAC store that makes the
multiplexer output fall increments TIMA, begins phase A where TIMA is 0xFF, and is lost in phases A and B (R214, R216, R217, R28). That the edge is of enable AND bit is the spec's
reading, marked in R214 (D23), and that TIMA is held in phase B is its choice (D24). -/
def Obligations.TimerStoreWindows : Prop :=
  ∀ (s : State) (v : Byte),
    (∀ k, s.timer.phase = .a k → s.store 0xFF05 v = { s with timer := { s.timer with tima := v, phase := .idle } })
      ∧ (∀ k, s.timer.phase = .b k → s.store 0xFF05 v = s)
      ∧ (s.timer.phase = .idle → s.store 0xFF05 v = { s with timer.tima := v })
      ∧ (∀ k, s.timer.phase = .b k → s.store 0xFF06 v = { s with timer := { s.timer with tma := v, tima := v } })
      ∧ ((∀ k, s.timer.phase ≠ .b k) → s.store 0xFF06 v = { s with timer.tma := v })
      ∧ (s.timer.signal = s.timer.signalNow →
          let u : Timer := { s.timer with counter := 0, signal := false }
          let fell : Bool := s.timer.tac.getLsbD 2 && s.timer.counter.getLsbD s.timer.selBit
          (s.timer.phase = .idle → fell = true → s.timer.tima ≠ 0xFF → s.store 0xFF04 v = { s with timer := { u with tima := s.timer.tima + 1 } })
            ∧ (s.timer.phase = .idle → fell = true → s.timer.tima = 0xFF → s.store 0xFF04 v = { s with timer := { u with tima := 0, phase := .a 4 } })
            ∧ (s.timer.phase ≠ .idle ∨ fell = false → s.store 0xFF04 v = { s with timer := u }))
      ∧ (s.timer.signal = s.timer.signalNow →
          let t : Timer := { s.timer with tac := v.extractLsb' 0 3 }
          let now : Bool := v.getLsbD 2 && s.timer.counter.getLsbD t.selBit
          let u : Timer := { t with signal := now }
          let fell : Bool := s.timer.tac.getLsbD 2 && s.timer.counter.getLsbD s.timer.selBit && !now
          (s.timer.phase = .idle → fell = true → s.timer.tima ≠ 0xFF → s.store 0xFF07 v = { s with timer := { u with tima := s.timer.tima + 1 } })
            ∧ (s.timer.phase = .idle → fell = true → s.timer.tima = 0xFF → s.store 0xFF07 v = { s with timer := { u with tima := 0, phase := .a 4 } })
            ∧ (s.timer.phase ≠ .idle ∨ fell = false → s.store 0xFF07 v = { s with timer := u }))
      ∧ (∀ x : Timer, (x.tac.toNat % 4 = 0 → x.selBit = 9) ∧ (x.tac.toNat % 4 = 1 → x.selBit = 3) ∧ (x.tac.toNat % 4 = 2 → x.selBit = 5)
          ∧ (x.tac.toNat % 4 = 3 → x.selBit = 7))

/-! ### Pixel pipeline (60_exceptions.md part 5) -/

/-- While the LCD is on the pipeline steps one dot a tick: 456 dots a line, 154 lines, 70224 dots a frame; while it is off it does nothing (R218, R228, R233). -/
def Obligations.OneDotATickSeventyThousandAFrame : Prop :=
  (∀ (s : State) (n : Nat), s.ppu.on = true → s.ppu.line < 154 → s.ppu.dot < 456 →
      let p := (ppuStep^[n] s).ppu
      p.on = true ∧ p.line < 154 ∧ p.dot < 456
        ∧ p.line * 456 + p.dot = (s.ppu.line * 456 + s.ppu.dot + n) % 70224)
    ∧ (∀ s : State, s.ppu.on = false → ppuStep s = s)

/-- The reported LY and mode, in terms of the last dot of the frame: LY is its line, but 0 from dot 4 of line 153; the mode is 0 in dots 0 to 3 of line 0; both are 0 while the LCD
is off (R229, R230, R231). -/
def Obligations.ReportedLyAndMode : Prop :=
  ∀ s : State, s.ppu.line < 154 → s.ppu.dot < 456 →
    let last := (s.ppu.line * 456 + s.ppu.dot + 70223) % 70224
    (s.loadVal 0xFF44).toNat = (if s.ppu.on = false ∨ 153 * 456 + 4 ≤ last then 0 else last / 456)
      ∧ s.ppu.reportedMode = (if s.ppu.on = false ∨ last < 4 then 0 else match s.ppu.mode with
          | .hblank => 0 | .vblank => 1 | .oamScan => 2 | .draw => 3)
      ∧ (s.loadVal 0xFF41).getLsbD 2 = (s.loadVal 0xFF44 == s.lcd.lyc)

/-- The interrupt requests of a dot: VBlank exactly at dot 0 of line 144; STAT exactly at a rise of the STAT line, which then has the value of its condition; no other
bit of IF changes (R219, R232). -/
def Obligations.DotRequestsVblankAndStat : Prop :=
  ∀ s : State, s.ppu.on = true →
    let t := ppuStep s
    t.ppu.statLine = ((s.lcd.statEn.getLsbD 3 && t.ppu.reportedLy == s.lcd.lyc)
        || (s.lcd.statEn.getLsbD 2 && (t.ppu.reportedMode == 2 || (t.ppu.lastLine == 144 && t.ppu.lastDot == 0)))
        || (s.lcd.statEn.getLsbD 1 && t.ppu.reportedMode == 1)
        || (s.lcd.statEn.getLsbD 0 && t.ppu.reportedMode == 0))
      ∧ t.irq.ifl.getLsbD 0 = (s.irq.ifl.getLsbD 0 || (s.ppu.line == 144 && s.ppu.dot == 0))
      ∧ t.irq.ifl.getLsbD 1 = (s.irq.ifl.getLsbD 1 || (t.ppu.statLine && !s.ppu.statLine))
      ∧ t.irq.ifl.getLsbD 2 = s.irq.ifl.getLsbD 2 ∧ t.irq.ifl.getLsbD 3 = s.irq.ifl.getLsbD 3
      ∧ t.irq.ifl.getLsbD 4 = s.irq.ifl.getLsbD 4 ∧ t.irq.ie = s.irq.ie

/-- Pixels and the work of a dot. In a state of the invariant, a tick puts out at most one pixel, on the screen, in a DRAW dot of an LCD that is on and not suppressed: the next column of the line of the
dot, in the shade that the mix of the two queues' heads gives, the background's from the queue or from the row that the fetcher pushes in the dot; the mode is still DRAW after it but HBLANK after
column 159. A DRAW dot does the first of these that applies: an idle dot, a step of the running object fetch, the start of an object that is due, else a fetcher step, then the drop of a pixel for fine
scroll or the output of one; before an object start it sets the X latch, and it starts the window once the three latched conditions hold. A dot on the whole pipeline: the line start with its
latches, the scan, the start of DRAW with SCX mod 8 pixels to drop, DRAW, HBLANK and VBLANK, and what counts at the end of a line and of a frame (R218, R219, R221, R222, R224, R226, R228,
R238). R218, R219 and R221 mark the decomposition and the latch points as the spec's choices; that the pixel is put first in a list is the model's choice of log 11. -/
def Obligations.PixelsLieOnTheScreen : Prop :=
  (∀ s t : State, Inv s → step s = .next t →
    t.out.image = s.out.image
      ∨ ∃ (c : State) (px : Pixel), cpuStep s = .next c ∧
          let u := timerTick c
          t.out.image = px :: s.out.image ∧ px.x < 160 ∧ px.y < 144
            ∧ u.ppu.line = px.y ∧ 80 < u.ppu.dot ∧ u.ppu.dot < 456 ∧ u.ppu.mode = .draw ∧ u.ppu.lx = px.x
            ∧ (u.ppu.drawDot u.lcd u.peek).2 = some px
            ∧ (∃ (bc : Colour) (o : ObjPixel) (os : List ObjPixel), px.shade = mix u.lcd bc o
                ∧ (u.ppu.bgFifo = bc :: t.ppu.bgFifo
                    ∨ (u.ppu.bgFifo = [] ∧ u.ppu.fetch.stage = 5 ∧ tileRow u.ppu.fetch.lo u.ppu.fetch.hi = bc :: t.ppu.bgFifo))
                ∧ u.ppu.objFifo = o :: os ∧ t.ppu.objFifo = os ++ [ObjPixel.transparent])
            ∧ t.ppu.line * 456 + t.ppu.dot = px.y * 456 + u.ppu.dot + 1
            ∧ t.ppu.mode = (if px.x = 159 then .hblank else .draw)
            ∧ t.ppu.lx = px.x + 1 ∧ t.ppu.on = true ∧ t.ppu.suppress = 0)
    ∧ (∀ (p : Ppu) (r : Lcd) (peek : Word → Byte),
      let latch := p.wxLatch || decide (r.wx.toNat ≤ p.lx + 7)
      let opens := !p.winActive && p.wyLatch && latch && r.lcdc.getLsbD 5 && r.lcdc.getLsbD 0
      let q : Ppu :=
        if opens then
          { p with wxLatch := latch, winActive := true, bgFifo := [], discard := 0, fetch := { p.fetch with stage := 0, tileX := 0, src := .win } }
        else { p with wxLatch := latch }
      let due : Nat → Prop := fun i => r.lcdc.getLsbD 1 = true ∧ q.discard = 0
        ∧ ∃ o, q.objs[i]? = some o ∧ o.done = false ∧ o.x.toNat ≤ q.lx + 8 ∧ ∀ j < i, ∀ e, q.objs[j]? = some e → e.done = true
      let b := q.bgStep r peek
      (p.delay > 0 → p.drawDot r peek = ({ p with delay := p.delay - 1 }, none))
        ∧ (p.delay = 0 → p.ofetch.active = true → p.drawDot r peek = (p.objStep r peek, none))
        ∧ (p.delay = 0 → p.ofetch.active = false →
          (∀ i, due i → p.drawDot r peek = (Ppu.objStep { q with ofetch := { q.ofetch with active := true, stage := 0, obj := i } } r peek, none))
            ∧ ((∀ i, ¬ due i) → b.bgFifo = [] → p.drawDot r peek = (b, none))
            ∧ (∀ bc rest, (∀ i, ¬ due i) → b.bgFifo = bc :: rest → b.discard > 0 →
                p.drawDot r peek = ({ b with bgFifo := rest, discard := b.discard - 1 }, none))
            ∧ (∀ bc rest o os, (∀ i, ¬ due i) → b.bgFifo = bc :: rest → b.discard = 0 → b.objFifo = o :: os →
                p.drawDot r peek =
                  ({ b with
                      bgFifo := rest, objFifo := os ++ [ObjPixel.transparent], lx := p.lx + 1
                      mode := if p.lx + 1 = 160 then .hblank else p.mode },
                    if p.suppress = 0 then some { x := p.lx, y := p.line, shade := mix r bc o } else none))))
    ∧ (∀ u : State, u.ppu.on = true → u.ppu.line < 154 → u.ppu.dot < 456 →
      let t := ppuStep u
      let p := u.ppu
      let moved : Ppu → Ppu := fun q =>
        { q with line := t.ppu.line, dot := t.ppu.dot, winLine := t.ppu.winLine, suppress := t.ppu.suppress, statLine := t.ppu.statLine }
      let fresh : Ppu :=
        { p with
          wyLatch := (p.line != 0 && p.wyLatch) || p.line == u.lcd.wy.toNat
          wxLatch := false, winActive := false, objs := [], mode := .oamScan }
      let first : Ppu :=
        { p with
          lx := 0, discard := u.lcd.scx.toNat % 8, delay := u.params.drawStartDelay.val, bgFifo := []
          objFifo := List.replicate 8 ObjPixel.transparent, fetch := { p.fetch with stage := 0, tileX := 0, src := .bg }
          ofetch := { p.ofetch with active := false }, mode := .draw }
      (p.line < 144 → p.dot = 0 → t.ppu = moved (fresh.oamScanEntry u.lcd u.peek 0) ∧ t.out = u.out)
        ∧ (p.line < 144 → 0 < p.dot → p.dot < 80 →
            t.ppu = moved (if p.dot % 2 = 0 then p.oamScanEntry u.lcd u.peek (p.dot / 2) else p) ∧ t.out = u.out)
        ∧ (p.line < 144 → p.dot = 80 → t.ppu = moved (first.drawDot u.lcd u.peek).1 ∧ t.out = u.out)
        ∧ (p.line < 144 → 80 < p.dot → p.mode = .draw →
            t.ppu = moved (p.drawDot u.lcd u.peek).1 ∧ t.out = { u.out with image := (p.drawDot u.lcd u.peek).2.toList ++ u.out.image })
        ∧ (144 ≤ p.line ∨ (80 < p.dot ∧ p.mode ≠ .draw) →
            t.ppu = moved { p with mode := if p.line = 144 ∧ p.dot = 0 then .vblank else p.mode } ∧ t.out = u.out)
        ∧ t.ppu.line * 456 + t.ppu.dot = (p.line * 456 + p.dot + 1) % 70224
        ∧ t.ppu.winLine = (if p.dot ≠ 455 then p.winLine else if p.line = 153 then 0 else if p.line < 144 ∧ t.ppu.winActive then p.winLine + 1 else p.winLine)
        ∧ t.ppu.suppress = (if p.line = 153 ∧ p.dot = 455 then p.suppress - 1 else p.suppress))

/-- Pixel priority: an object pixel that is not transparent shows when its priority bit is 0 or the background counts as index 0; otherwise the background shows, or white when it is disabled; the shade
is the palette's entry (R227, R40). That a disabled background counts as index 0 in the priority test is the spec's own reading, marked in R227 (D31). -/
def Obligations.ObjectPriorityOverBackground : Prop :=
  ∀ (r : Lcd) (bc : Colour) (o : ObjPixel),
    (o.c ≠ 0 → (o.prio = false ∨ bc = 0 ∨ r.lcdc.getLsbD 0 = false) →
        (mix r bc o).toNat = (if o.pal then r.obp1 else r.obp0).toNat / 4 ^ o.c.toNat % 4)
      ∧ (o.c = 0 ∨ (o.prio = true ∧ bc ≠ 0 ∧ r.lcdc.getLsbD 0 = true) →
        (mix r bc o).toNat = (if r.lcdc.getLsbD 0 then r.bgp.toNat / 4 ^ bc.toNat % 4 else 0))

/-- The OAM scan keeps the found objects sorted by x, at most 10; it adds the entry, after every entry with an x no greater, exactly when there is room and the entry covers the
line (R220). -/
def Obligations.OamScanKeepsObjectsSorted : Prop :=
  ∀ (p : Ppu) (r : Lcd) (peek : Word → Byte) (i : Nat),
    let y := peek (BitVec.ofNat 16 (0xFE00 + 4 * i))
    let x := peek (BitVec.ofNat 16 (0xFE00 + 4 * i + 1))
    let h := if r.lcdc.getLsbD 2 then 16 else 8
    let o : ObjEntry := { idx := i, y := y, x := x, done := false }
    p.objs.Pairwise (fun a b => a.x.toNat ≤ b.x.toNat) → p.objs.length ≤ 10 →
      (p.objs.length < 10 ∧ y.toNat ≤ p.line + 16 ∧ p.line + 16 < y.toNat + h →
        ∃ before after, p.objs = before ++ after ∧ p.oamScanEntry r peek i = { p with objs := before ++ o :: after }
          ∧ (∀ e ∈ before, e.x.toNat ≤ x.toNat) ∧ (∀ e ∈ after, x.toNat < e.x.toNat))
        ∧ (¬(p.objs.length < 10 ∧ y.toNat ≤ p.line + 16 ∧ p.line + 16 < y.toNat + h) → p.oamScanEntry r peek i = p)
        ∧ (p.oamScanEntry r peek i).objs.Pairwise (fun a b => a.x.toNat ≤ b.x.toNat) ∧ (p.oamScanEntry r peek i).objs.length ≤ 10

/-- The background and window fetcher: from stage 0 with an empty queue, six steps read the tile number and the two plane bytes of its row, at the map and tile addresses of R223, and push the row's
eight pixels, the leftmost from bit 7, and stage 0 of the next tile begins (R223). -/
def Obligations.FetcherPushesATileRow : Prop :=
  ∀ (p : Ppu) (r : Lcd) (peek : Word → Byte),
    p.fetch.stage = 0 → p.bgFifo = [] →
      let y : Nat := match p.fetch.src with
        | .bg => (p.line + r.scy.toNat) % 256
        | .win => p.winLine.toNat
      let map : Nat := match p.fetch.src with
        | .bg => (if r.lcdc.getLsbD 3 then 0x9C00 else 0x9800) + 32 * (y / 8) + (r.scx.toNat / 8 + p.fetch.tileX.toNat) % 32
        | .win => (if r.lcdc.getLsbD 6 then 0x9C00 else 0x9800) + 32 * (y / 8) + p.fetch.tileX.toNat % 32
      let id := peek (BitVec.ofNat 16 map)
      let tile : Word :=
        if r.lcdc.getLsbD 4 then BitVec.ofNat 16 (0x8000 + 16 * id.toNat + 2 * (y % 8)) else BitVec.ofInt 16 (0x9000 + 16 * id.toInt + 2 * (y % 8))
      let lo := peek tile
      let hi := peek (tile + 1)
      let t := (fun u : Ppu => u.bgStep r peek)^[6] p
      t.bgFifo.length = 8
        ∧ (∀ j < 8, (t.bgFifo.getD j 0).toNat = (lo.getLsbD (7 - j)).toNat + 2 * (hi.getLsbD (7 - j)).toNat)
        ∧ t.fetch.stage = 0 ∧ t.fetch.tileX = p.fetch.tileX + 1 ∧ t.fetch.src = p.fetch.src
        ∧ { t with bgFifo := p.bgFifo, fetch := p.fetch } = p

/-- The object fetcher: from stage 0, six steps read the object's tile, its attributes and the two plane bytes of its row, at the addresses of R225, and merge its eight pixels: slot k takes the
colour, the palette and the priority of the object's column lx + k where that pixel is opaque and the slot is still transparent, and keeps what it holds otherwise; the object is marked done
and nothing else changes (R225). That a row outside the object is not masked is the model's reading of log 18. -/
def Obligations.ObjectPixelsFillTransparentSlots : Prop :=
  ∀ (p : Ppu) (r : Lcd) (peek : Word → Byte) (o : ObjEntry),
    p.objs[p.ofetch.obj]? = some o → p.ofetch.stage = 0 →
      let tile := peek (BitVec.ofNat 16 (0xFE00 + 4 * o.idx + 2))
      let attr := peek (BitVec.ofNat 16 (0xFE00 + 4 * o.idx + 3))
      let top : Int := (p.line : Int) + 16 - o.y.toNat
      let row : Int := if attr.getLsbD 6 then (if r.lcdc.getLsbD 2 then 16 else 8) - 1 - top else top
      let first : Nat := if r.lcdc.getLsbD 2 then tile.toNat / 2 * 2 else tile.toNat
      let lo := peek (BitVec.ofInt 16 (0x8000 + 16 * first + 2 * row))
      let hi := peek (BitVec.ofInt 16 (0x8000 + 16 * first + 2 * row) + 1)
      let colour : Nat → Colour := fun j =>
        let b := if attr.getLsbD 5 then j else 7 - j
        BitVec.ofNat 2 ((lo.getLsbD b).toNat + 2 * (hi.getLsbD b).toNat)
      let t := (fun u : Ppu => u.objStep r peek)^[6] p
      t.objFifo.length = p.objFifo.length
        ∧ (∀ k < p.objFifo.length,
            let old := p.objFifo.getD k ObjPixel.transparent
            let j : Int := (p.lx : Int) + k + 8 - o.x.toNat
            t.objFifo.getD k ObjPixel.transparent
              = if old.c = 0 ∧ k < 8 ∧ 0 ≤ j ∧ j < 8 ∧ colour j.toNat ≠ 0 then { c := colour j.toNat, pal := attr.getLsbD 4, prio := attr.getLsbD 7 }
                else old)
        ∧ t.objs = p.objs.set p.ofetch.obj { o with done := true } ∧ t.ofetch.active = false
        ∧ { t with objFifo := p.objFifo, objs := p.objs, ofetch := p.ofetch } = p

/-- The LCD power toggle: a store to LCDC that changes bit 7 puts the pipeline at line 0 dot 0 in HBLANK with empty queues and cleared latches; switching on
suppresses two frames; a store that keeps bit 7 leaves the pipeline alone (R233). -/
def Obligations.LcdPowerToggle : Prop :=
  ∀ (s : State) (v : Byte),
    let p := (s.store 0xFF40 v).ppu
    (s.lcd.lcdc.getLsbD 7 = v.getLsbD 7 → p = s.ppu)
      ∧ (s.lcd.lcdc.getLsbD 7 ≠ v.getLsbD 7 →
          p.on = v.getLsbD 7 ∧ p.suppress = (if v.getLsbD 7 then 2 else s.ppu.suppress)
            ∧ p.line = 0 ∧ p.dot = 0 ∧ p.mode = .hblank ∧ p.objs = [] ∧ p.bgFifo = []
            ∧ p.objFifo = List.replicate 8 ObjPixel.transparent
            ∧ p.fetch = { stage := 0, tileX := 0, src := .bg, tileId := 0, lo := 0, hi := 0 } ∧ p.ofetch.active = false
            ∧ p.lx = 0 ∧ p.discard = 0 ∧ p.delay = 0 ∧ p.wyLatch = false ∧ p.wxLatch = false ∧ p.winActive = false
            ∧ p.winLine = 0 ∧ p.statLine = false)

/-! ### DMA and environment (60_exceptions.md parts 6 and 7) -/

/-- A store to DMA starts a transfer whose byte i is copied in the (5 + 4i)-th DMA step after it and not before; after 641 steps object memory holds the 160 bytes that the restricted bus gives at the source, the engine
is idle, and every other byte of RAM is as before (R234, R235, R59). -/
def Obligations.DmaCopiesOneHundredSixtyBytes : Prop :=
  ∀ (s0 : State) (v : Byte), MemInv s0 →
    let s := s0.store 0xFF46 v
    s.dma.reg = v ∧ s.dma.active = true
      ∧ (∀ i < 160, (dmaTick^[5 + 4 * i] s).ramByte (0xFE00 + i) = s.dmaRead (BitVec.ofNat 16 (256 * v.toNat + i)))
      ∧ (∀ i < 160, (dmaTick^[4 + 4 * i] s).ramByte (0xFE00 + i) = s.ramByte (0xFE00 + i))
      ∧ (∀ j < 641, (dmaTick^[j] s).dma.active = true)
      ∧ (dmaTick^[641] s).dma.active = false
      ∧ (∀ i < 160, (dmaTick^[641] s).ramByte (0xFE00 + i) = s.dmaRead (BitVec.ofNat 16 (256 * v.toNat + i)))
      ∧ (∀ k, (k < 0xFE00 ∨ 0xFEA0 ≤ k) → (dmaTick^[641] s).ramByte k = s.ramByte k)

/-- The environment: its step may set IF bits 3 and 4 and changes nothing else of the block; a load from its registers returns one of its values, a store there changes nothing; the closed machine requests
nothing and reads 0xFF (R236, R237). That its values are free values counted by `draws` is log 3. -/
def Obligations.EnvironmentReachesOnlySerialAndJoypad : Prop :=
  (∀ s : State, ∃ m ∈ [0#5, 8#5, 16#5, 24#5],
      envStep s = { s with irq.ifl := s.irq.ifl ||| m, env.draws := s.env.draws + 1 } ∧ (s.env.source = .closed → m = 0))
    ∧ (∀ (s : State) (a : Word) (v : Byte),
        a.toNat ∈ [0xFF00, 0xFF01, 0xFF02] ∨ (0xFF10 ≤ a.toNat ∧ a.toNat ≤ 0xFF14) ∨ (0xFF16 ≤ a.toNat ∧ a.toNat ≤ 0xFF1E)
          ∨ (0xFF20 ≤ a.toNat ∧ a.toNat ≤ 0xFF26) ∨ (0xFF30 ≤ a.toNat ∧ a.toNat ≤ 0xFF3F) →
        s.store a v = s ∧ s.afterLoad a = { s with env.draws := s.env.draws + 1 }
          ∧ s.loadVal a = (if s.env.source = .closed then 0xFF else Config.envByte s.env.draws))

/-! ### Reset, construction, invariant (70_reset_and_hazards.md) -/

/-- Construction is refused for an empty or too long boot image, for a cartridge image of a bad length and for an unsupported controller; otherwise it gives the reset state with
the images, the power-on RAM contents and the parameters in place, and nothing else changed; the reset state has the values that R240 gives, with every part of the pixel pipeline as the reset column of R44
has it, and the defaults of R9 (R9, R44, R239, R240). That the refusals are found in this order and that an unsupported controller is `none` are the model's choices of log 19; that the power-on contents are
given as lists, of which the first entry for a byte counts and an unlisted byte is 0, is its choice of log 2; the palette and the priority of a transparent slot are those of log 15; that the outputs are
lists, empty at reset, is log 11. -/
def Obligations.ConstructionAndResetValues : Prop :=
  (∀ p : BuildParams,
    (p.bootRom.length = 0 ∨ p.bootRom.length > 256 → construct p = .refused (.badBootRom p.bootRom.length))
      ∧ (1 ≤ p.bootRom.length → p.bootRom.length ≤ 256 → p.cartRom.length < 32768 ∨ p.cartRom.length % 16384 ≠ 0 →
          construct p = .refused (.badCartRom p.cartRom.length))
      ∧ (1 ≤ p.bootRom.length → p.bootRom.length ≤ 256 → 32768 ≤ p.cartRom.length → p.cartRom.length % 16384 = 0 →
          (p.cart = none → construct p = .refused .unsupportedController)
            ∧ ∀ c, p.cart = some c → ∃ s, construct p = .next s
                ∧ s = { State.reset with
                    bus := s.bus, cart := c, env := { source := p.env, draws := 0 }
                    params := { accessLock := p.accessLock, drawStartDelay := p.drawStartDelay } }
                ∧ s.bus.bootOverlay = true ∧ s.bus.cartRomLen = p.cartRom.length
                ∧ (∀ o (h : o < p.bootRom.length), s.defaultRead .boot o = p.bootRom[o])
                ∧ (∀ o, p.bootRom.length ≤ o → s.defaultRead .boot o = 0xFF)
                ∧ (∀ o (h : o < p.cartRom.length), Memory.read 0 s.bus.cartRom o = p.cartRom[o])
                ∧ (∀ k, s.ramByte k = ((p.ramInit.find? fun e => ramKey e.1 == some k).map (·.2)).getD 0)
                ∧ (∀ o, Memory.read 0 s.bus.cartRam o = ((p.cartRamInit.find? fun e => e.1 == o).map (·.2)).getD 0)))
    ∧ (let s := State.reset
      s.regs.a = 0 ∧ s.regs.f = 0 ∧ s.regs.b = 0 ∧ s.regs.c = 0 ∧ s.regs.d = 0 ∧ s.regs.e = 0 ∧ s.regs.h = 0 ∧ s.regs.l = 0
        ∧ s.regs.sp = 0 ∧ s.regs.pc = 0 ∧ s.cpu.ime = false ∧ s.cpu.halted = false ∧ s.cpu.haltBug = false ∧ s.cpu.eiDelay = 0
        ∧ s.cpu.cpuWait = 0 ∧ s.cpu.instrAddr = 0 ∧ s.cpu.opcode = .byte 0 ∧ s.cpu.fault = none ∧ s.cpu.refused = none
        ∧ s.bus.bootOverlay = true ∧ s.timer.counter = 0 ∧ s.timer.tima = 0 ∧ s.timer.tma = 0 ∧ s.loadVal 0xFF07 = 0xF8
        ∧ s.timer.phase = .idle ∧ s.timer.signal = false ∧ s.loadVal 0xFF0F = 0xE0 ∧ s.irq.ie = 0
        ∧ s.lcd = { lcdc := 0, statEn := 0, scy := 0, scx := 0, lyc := 0, bgp := 0, obp0 := 0, obp1 := 0, wy := 0, wx := 0 }
        ∧ s.ppu.on = false ∧ s.loadVal 0xFF44 = 0 ∧ s.ppu.reportedMode = 0
        ∧ s.ppu.line = 0 ∧ s.ppu.dot = 0 ∧ s.ppu.lastLine = 153 ∧ s.ppu.lastDot = 455 ∧ s.ppu.mode = .hblank ∧ s.ppu.objs = [] ∧ s.ppu.bgFifo = []
        ∧ s.ppu.objFifo = List.replicate 8 { c := 0, pal := false, prio := false }
        ∧ s.ppu.fetch = { stage := 0, tileX := 0, src := .bg, tileId := 0, lo := 0, hi := 0 } ∧ s.ppu.ofetch.active = false
        ∧ s.ppu.lx = 0 ∧ s.ppu.discard = 0 ∧ s.ppu.delay = 0 ∧ s.ppu.wyLatch = false ∧ s.ppu.wxLatch = false ∧ s.ppu.winActive = false
        ∧ s.ppu.winLine = 0 ∧ s.ppu.statLine = false ∧ s.ppu.suppress = 0 ∧ s.dma.reg = 0 ∧ s.dma.active = false
        ∧ (∀ k, s.ramByte k = 0) ∧ (∀ k, Memory.read 0 s.bus.cartRam k = 0)
        ∧ s.cart = .romOnly ∧ s.cart.answers.romBankA = 0 ∧ s.cart.answers.romBankB = 1
        ∧ s.params.accessLock = true ∧ s.params.drawStartDelay.val = 0 ∧ s.env.source = .unconstrained
        ∧ s.ticks = 0 ∧ s.out = { trace := [], image := [] })

/-- The reset state meets the invariant of a run. Where the invariant speaks of a value that the spec does not give, it holds by the value that the model chose: the blank cartridge image of 32768 bytes and
the images that list nothing (log 1), the power-on RAM that lists nothing (log 2), and the DMA source, index and count and the stage of the object fetcher, all 0 (log 15). -/
def Obligations.ResetMeetsInvariant : Prop := Inv State.reset

/-- Every tick keeps the invariant, from every state that meets it: the low nibble of F, the ranges of the control state, the canonical form of the byte stores, the
timer's phases, the pipeline's ranges and queues, and the DMA engine's counters. -/
def Obligations.StepKeepsInvariant : Prop :=
  ∀ s t : State, Inv s → step s = .next t → Inv t

/-! ### Cartridge windows (20_memory.md R53, R60) -/

/-- The cartridge windows: outside the boot overlay, a load from a ROM window gives the byte of the bank that the controller answers, modulo the image's length; with the ROM-only controller it gives the
byte of the image at the address; where cartridge RAM is present and enabled, its window loads and stores the byte of the bank that the controller answers, a stored byte reads back and no other byte
of that RAM changes (R53, R60). That cartridge RAM is plain memory keyed by bank and offset is the model's choice of log 4. -/
def Obligations.CartridgeWindows : Prop :=
  ∀ (s : State) (a : Word) (v : Byte),
    let n := a.toNat
    let k := s.cart.answers.sramBank * 8192 + (n - 0xA000)
    (s.bus.bootOverlay = false ∨ 0x100 ≤ n → n ≤ 0x3FFF →
        s.loadVal a = Memory.read 0 s.bus.cartRom ((s.cart.answers.romBankA * 16384 + n) % s.bus.cartRomLen))
      ∧ (0x4000 ≤ n → n ≤ 0x7FFF →
        s.loadVal a = Memory.read 0 s.bus.cartRom ((s.cart.answers.romBankB * 16384 + (n - 0x4000)) % s.bus.cartRomLen))
      ∧ (s.cart = .romOnly → 32768 ≤ s.bus.cartRomLen → s.bus.bootOverlay = false ∨ 0x100 ≤ n → n ≤ 0x7FFF →
        s.loadVal a = Memory.read 0 s.bus.cartRom n)
      ∧ (∀ b : BitVec 5, s.cart = .bank5 b → s.cart.answers.romBankA = 0 ∧ s.cart.answers.romBankB = b.toNat ∧ s.cart.answers.ramPresent = false)
      ∧ (s.cart.answers.ramPresent = true → s.cart.answers.ramEnabled = true → 0xA000 ≤ n → n ≤ 0xBFFF →
        s.loadVal a = Memory.read 0 s.bus.cartRam k
          ∧ s.store a v = { s with bus.cartRam := Memory.write 0 s.bus.cartRam k v }
          ∧ (MemInv s → (s.store a v).loadVal a = v ∧ ∀ j, j ≠ k → Memory.read 0 (s.store a v).bus.cartRam j = Memory.read 0 s.bus.cartRam j))
end

