-- ==== Sys2Proof/Laws/State.lean ====
section
/-! SUPPORT. One lemma per field per update: what the small updates of the state leave alone. -/

namespace Sys2Proof.Machine

/-! ### `State.cost` -/

@[simp] theorem State.cost_regs (s : State) (m : Nat) : (s.cost m).regs = s.regs := rfl
@[simp] theorem State.cost_irq (s : State) (m : Nat) : (s.cost m).irq = s.irq := rfl
@[simp] theorem State.cost_timer (s : State) (m : Nat) : (s.cost m).timer = s.timer := rfl
@[simp] theorem State.cost_lcd (s : State) (m : Nat) : (s.cost m).lcd = s.lcd := rfl
@[simp] theorem State.cost_ppu (s : State) (m : Nat) : (s.cost m).ppu = s.ppu := rfl
@[simp] theorem State.cost_dma (s : State) (m : Nat) : (s.cost m).dma = s.dma := rfl
@[simp] theorem State.cost_bus (s : State) (m : Nat) : (s.cost m).bus = s.bus := rfl
@[simp] theorem State.cost_cart (s : State) (m : Nat) : (s.cost m).cart = s.cart := rfl
@[simp] theorem State.cost_env (s : State) (m : Nat) : (s.cost m).env = s.env := rfl
@[simp] theorem State.cost_params (s : State) (m : Nat) : (s.cost m).params = s.params := rfl
@[simp] theorem State.cost_out (s : State) (m : Nat) : (s.cost m).out = s.out := rfl
@[simp] theorem State.cost_ticks (s : State) (m : Nat) : (s.cost m).ticks = s.ticks := rfl
@[simp] theorem State.cost_cpu_ime (s : State) (m : Nat) : (s.cost m).cpu.ime = s.cpu.ime := rfl
@[simp] theorem State.cost_cpu_halted (s : State) (m : Nat) : (s.cost m).cpu.halted = s.cpu.halted := rfl
@[simp] theorem State.cost_cpu_eiDelay (s : State) (m : Nat) : (s.cost m).cpu.eiDelay = s.cpu.eiDelay := rfl
@[simp] theorem State.cost_cpu_haltBug (s : State) (m : Nat) : (s.cost m).cpu.haltBug = s.cpu.haltBug := rfl
@[simp] theorem State.cost_cpu_instrAddr (s : State) (m : Nat) : (s.cost m).cpu.instrAddr = s.cpu.instrAddr := rfl
@[simp] theorem State.cost_cpu_opcode (s : State) (m : Nat) : (s.cost m).cpu.opcode = s.cpu.opcode := rfl
@[simp] theorem State.cost_cpu_fault (s : State) (m : Nat) : (s.cost m).cpu.fault = s.cpu.fault := rfl
@[simp] theorem State.cost_cpu_refused (s : State) (m : Nat) : (s.cost m).cpu.refused = s.cpu.refused := rfl

/-! ### `State.setPc` -/

@[simp] theorem State.setPc_cpu (s : State) (v : Word) : (s.setPc v).cpu = s.cpu := rfl
@[simp] theorem State.setPc_irq (s : State) (v : Word) : (s.setPc v).irq = s.irq := rfl
@[simp] theorem State.setPc_timer (s : State) (v : Word) : (s.setPc v).timer = s.timer := rfl
@[simp] theorem State.setPc_lcd (s : State) (v : Word) : (s.setPc v).lcd = s.lcd := rfl
@[simp] theorem State.setPc_ppu (s : State) (v : Word) : (s.setPc v).ppu = s.ppu := rfl
@[simp] theorem State.setPc_dma (s : State) (v : Word) : (s.setPc v).dma = s.dma := rfl
@[simp] theorem State.setPc_bus (s : State) (v : Word) : (s.setPc v).bus = s.bus := rfl
@[simp] theorem State.setPc_cart (s : State) (v : Word) : (s.setPc v).cart = s.cart := rfl
@[simp] theorem State.setPc_env (s : State) (v : Word) : (s.setPc v).env = s.env := rfl
@[simp] theorem State.setPc_params (s : State) (v : Word) : (s.setPc v).params = s.params := rfl
@[simp] theorem State.setPc_out (s : State) (v : Word) : (s.setPc v).out = s.out := rfl
@[simp] theorem State.setPc_ticks (s : State) (v : Word) : (s.setPc v).ticks = s.ticks := rfl
@[simp] theorem State.setPc_regs_a (s : State) (v : Word) : (s.setPc v).regs.a = s.regs.a := rfl
@[simp] theorem State.setPc_regs_f (s : State) (v : Word) : (s.setPc v).regs.f = s.regs.f := rfl
@[simp] theorem State.setPc_regs_b (s : State) (v : Word) : (s.setPc v).regs.b = s.regs.b := rfl
@[simp] theorem State.setPc_regs_c (s : State) (v : Word) : (s.setPc v).regs.c = s.regs.c := rfl
@[simp] theorem State.setPc_regs_d (s : State) (v : Word) : (s.setPc v).regs.d = s.regs.d := rfl
@[simp] theorem State.setPc_regs_e (s : State) (v : Word) : (s.setPc v).regs.e = s.regs.e := rfl
@[simp] theorem State.setPc_regs_h (s : State) (v : Word) : (s.setPc v).regs.h = s.regs.h := rfl
@[simp] theorem State.setPc_regs_l (s : State) (v : Word) : (s.setPc v).regs.l = s.regs.l := rfl
@[simp] theorem State.setPc_regs_sp (s : State) (v : Word) : (s.setPc v).regs.sp = s.regs.sp := rfl

/-! ### `State.setSp` -/

@[simp] theorem State.setSp_cpu (s : State) (v : Word) : (s.setSp v).cpu = s.cpu := rfl
@[simp] theorem State.setSp_irq (s : State) (v : Word) : (s.setSp v).irq = s.irq := rfl
@[simp] theorem State.setSp_timer (s : State) (v : Word) : (s.setSp v).timer = s.timer := rfl
@[simp] theorem State.setSp_lcd (s : State) (v : Word) : (s.setSp v).lcd = s.lcd := rfl
@[simp] theorem State.setSp_ppu (s : State) (v : Word) : (s.setSp v).ppu = s.ppu := rfl
@[simp] theorem State.setSp_dma (s : State) (v : Word) : (s.setSp v).dma = s.dma := rfl
@[simp] theorem State.setSp_bus (s : State) (v : Word) : (s.setSp v).bus = s.bus := rfl
@[simp] theorem State.setSp_cart (s : State) (v : Word) : (s.setSp v).cart = s.cart := rfl
@[simp] theorem State.setSp_env (s : State) (v : Word) : (s.setSp v).env = s.env := rfl
@[simp] theorem State.setSp_params (s : State) (v : Word) : (s.setSp v).params = s.params := rfl
@[simp] theorem State.setSp_out (s : State) (v : Word) : (s.setSp v).out = s.out := rfl
@[simp] theorem State.setSp_ticks (s : State) (v : Word) : (s.setSp v).ticks = s.ticks := rfl
@[simp] theorem State.setSp_regs_a (s : State) (v : Word) : (s.setSp v).regs.a = s.regs.a := rfl
@[simp] theorem State.setSp_regs_f (s : State) (v : Word) : (s.setSp v).regs.f = s.regs.f := rfl
@[simp] theorem State.setSp_regs_b (s : State) (v : Word) : (s.setSp v).regs.b = s.regs.b := rfl
@[simp] theorem State.setSp_regs_c (s : State) (v : Word) : (s.setSp v).regs.c = s.regs.c := rfl
@[simp] theorem State.setSp_regs_d (s : State) (v : Word) : (s.setSp v).regs.d = s.regs.d := rfl
@[simp] theorem State.setSp_regs_e (s : State) (v : Word) : (s.setSp v).regs.e = s.regs.e := rfl
@[simp] theorem State.setSp_regs_h (s : State) (v : Word) : (s.setSp v).regs.h = s.regs.h := rfl
@[simp] theorem State.setSp_regs_l (s : State) (v : Word) : (s.setSp v).regs.l = s.regs.l := rfl
@[simp] theorem State.setSp_regs_pc (s : State) (v : Word) : (s.setSp v).regs.pc = s.regs.pc := rfl

/-! ### `State.setFlags` -/

@[simp] theorem State.setFlags_cpu (s : State) (z n h c : Bool) : (s.setFlags z n h c).cpu = s.cpu := rfl
@[simp] theorem State.setFlags_irq (s : State) (z n h c : Bool) : (s.setFlags z n h c).irq = s.irq := rfl
@[simp] theorem State.setFlags_timer (s : State) (z n h c : Bool) : (s.setFlags z n h c).timer = s.timer := rfl
@[simp] theorem State.setFlags_lcd (s : State) (z n h c : Bool) : (s.setFlags z n h c).lcd = s.lcd := rfl
@[simp] theorem State.setFlags_ppu (s : State) (z n h c : Bool) : (s.setFlags z n h c).ppu = s.ppu := rfl
@[simp] theorem State.setFlags_dma (s : State) (z n h c : Bool) : (s.setFlags z n h c).dma = s.dma := rfl
@[simp] theorem State.setFlags_bus (s : State) (z n h c : Bool) : (s.setFlags z n h c).bus = s.bus := rfl
@[simp] theorem State.setFlags_cart (s : State) (z n h c : Bool) : (s.setFlags z n h c).cart = s.cart := rfl
@[simp] theorem State.setFlags_env (s : State) (z n h c : Bool) : (s.setFlags z n h c).env = s.env := rfl
@[simp] theorem State.setFlags_params (s : State) (z n h c : Bool) : (s.setFlags z n h c).params = s.params := rfl
@[simp] theorem State.setFlags_out (s : State) (z n h c : Bool) : (s.setFlags z n h c).out = s.out := rfl
@[simp] theorem State.setFlags_ticks (s : State) (z n h c : Bool) : (s.setFlags z n h c).ticks = s.ticks := rfl
@[simp] theorem State.setFlags_regs_a (s : State) (z n h c : Bool) : (s.setFlags z n h c).regs.a = s.regs.a := rfl
@[simp] theorem State.setFlags_regs_b (s : State) (z n h c : Bool) : (s.setFlags z n h c).regs.b = s.regs.b := rfl
@[simp] theorem State.setFlags_regs_c (s : State) (z n h c : Bool) : (s.setFlags z n h c).regs.c = s.regs.c := rfl
@[simp] theorem State.setFlags_regs_d (s : State) (z n h c : Bool) : (s.setFlags z n h c).regs.d = s.regs.d := rfl
@[simp] theorem State.setFlags_regs_e (s : State) (z n h c : Bool) : (s.setFlags z n h c).regs.e = s.regs.e := rfl
@[simp] theorem State.setFlags_regs_h (s : State) (z n h c : Bool) : (s.setFlags z n h c).regs.h = s.regs.h := rfl
@[simp] theorem State.setFlags_regs_l (s : State) (z n h c : Bool) : (s.setFlags z n h c).regs.l = s.regs.l := rfl
@[simp] theorem State.setFlags_regs_sp (s : State) (z n h c : Bool) : (s.setFlags z n h c).regs.sp = s.regs.sp := rfl
@[simp] theorem State.setFlags_regs_pc (s : State) (z n h c : Bool) : (s.setFlags z n h c).regs.pc = s.regs.pc := rfl

/-! ### `State.setF` -/

@[simp] theorem State.setF_cpu (s : State) (v : Byte) : (s.setF v).cpu = s.cpu := rfl
@[simp] theorem State.setF_irq (s : State) (v : Byte) : (s.setF v).irq = s.irq := rfl
@[simp] theorem State.setF_timer (s : State) (v : Byte) : (s.setF v).timer = s.timer := rfl
@[simp] theorem State.setF_lcd (s : State) (v : Byte) : (s.setF v).lcd = s.lcd := rfl
@[simp] theorem State.setF_ppu (s : State) (v : Byte) : (s.setF v).ppu = s.ppu := rfl
@[simp] theorem State.setF_dma (s : State) (v : Byte) : (s.setF v).dma = s.dma := rfl
@[simp] theorem State.setF_bus (s : State) (v : Byte) : (s.setF v).bus = s.bus := rfl
@[simp] theorem State.setF_cart (s : State) (v : Byte) : (s.setF v).cart = s.cart := rfl
@[simp] theorem State.setF_env (s : State) (v : Byte) : (s.setF v).env = s.env := rfl
@[simp] theorem State.setF_params (s : State) (v : Byte) : (s.setF v).params = s.params := rfl
@[simp] theorem State.setF_out (s : State) (v : Byte) : (s.setF v).out = s.out := rfl
@[simp] theorem State.setF_ticks (s : State) (v : Byte) : (s.setF v).ticks = s.ticks := rfl
@[simp] theorem State.setF_regs_a (s : State) (v : Byte) : (s.setF v).regs.a = s.regs.a := rfl
@[simp] theorem State.setF_regs_b (s : State) (v : Byte) : (s.setF v).regs.b = s.regs.b := rfl
@[simp] theorem State.setF_regs_c (s : State) (v : Byte) : (s.setF v).regs.c = s.regs.c := rfl
@[simp] theorem State.setF_regs_d (s : State) (v : Byte) : (s.setF v).regs.d = s.regs.d := rfl
@[simp] theorem State.setF_regs_e (s : State) (v : Byte) : (s.setF v).regs.e = s.regs.e := rfl
@[simp] theorem State.setF_regs_h (s : State) (v : Byte) : (s.setF v).regs.h = s.regs.h := rfl
@[simp] theorem State.setF_regs_l (s : State) (v : Byte) : (s.setF v).regs.l = s.regs.l := rfl
@[simp] theorem State.setF_regs_sp (s : State) (v : Byte) : (s.setF v).regs.sp = s.regs.sp := rfl
@[simp] theorem State.setF_regs_pc (s : State) (v : Byte) : (s.setF v).regs.pc = s.regs.pc := rfl

/-! ### `State.setHl` -/

@[simp] theorem State.setHl_cpu (s : State) (v : Word) : (s.setHl v).cpu = s.cpu := rfl
@[simp] theorem State.setHl_irq (s : State) (v : Word) : (s.setHl v).irq = s.irq := rfl
@[simp] theorem State.setHl_timer (s : State) (v : Word) : (s.setHl v).timer = s.timer := rfl
@[simp] theorem State.setHl_lcd (s : State) (v : Word) : (s.setHl v).lcd = s.lcd := rfl
@[simp] theorem State.setHl_ppu (s : State) (v : Word) : (s.setHl v).ppu = s.ppu := rfl
@[simp] theorem State.setHl_dma (s : State) (v : Word) : (s.setHl v).dma = s.dma := rfl
@[simp] theorem State.setHl_bus (s : State) (v : Word) : (s.setHl v).bus = s.bus := rfl
@[simp] theorem State.setHl_cart (s : State) (v : Word) : (s.setHl v).cart = s.cart := rfl
@[simp] theorem State.setHl_env (s : State) (v : Word) : (s.setHl v).env = s.env := rfl
@[simp] theorem State.setHl_params (s : State) (v : Word) : (s.setHl v).params = s.params := rfl
@[simp] theorem State.setHl_out (s : State) (v : Word) : (s.setHl v).out = s.out := rfl
@[simp] theorem State.setHl_ticks (s : State) (v : Word) : (s.setHl v).ticks = s.ticks := rfl
@[simp] theorem State.setHl_regs_a (s : State) (v : Word) : (s.setHl v).regs.a = s.regs.a := rfl
@[simp] theorem State.setHl_regs_f (s : State) (v : Word) : (s.setHl v).regs.f = s.regs.f := rfl
@[simp] theorem State.setHl_regs_b (s : State) (v : Word) : (s.setHl v).regs.b = s.regs.b := rfl
@[simp] theorem State.setHl_regs_c (s : State) (v : Word) : (s.setHl v).regs.c = s.regs.c := rfl
@[simp] theorem State.setHl_regs_d (s : State) (v : Word) : (s.setHl v).regs.d = s.regs.d := rfl
@[simp] theorem State.setHl_regs_e (s : State) (v : Word) : (s.setHl v).regs.e = s.regs.e := rfl
@[simp] theorem State.setHl_regs_sp (s : State) (v : Word) : (s.setHl v).regs.sp = s.regs.sp := rfl
@[simp] theorem State.setHl_regs_pc (s : State) (v : Word) : (s.setHl v).regs.pc = s.regs.pc := rfl

/-! ### `State.setReg8` -/

@[simp] theorem State.setReg8_cpu (s : State) (r : Reg8) (v : Byte) : (s.setReg8 r v).cpu = s.cpu := by cases r <;> rfl
@[simp] theorem State.setReg8_irq (s : State) (r : Reg8) (v : Byte) : (s.setReg8 r v).irq = s.irq := by cases r <;> rfl
@[simp] theorem State.setReg8_timer (s : State) (r : Reg8) (v : Byte) : (s.setReg8 r v).timer = s.timer := by cases r <;> rfl
@[simp] theorem State.setReg8_lcd (s : State) (r : Reg8) (v : Byte) : (s.setReg8 r v).lcd = s.lcd := by cases r <;> rfl
@[simp] theorem State.setReg8_ppu (s : State) (r : Reg8) (v : Byte) : (s.setReg8 r v).ppu = s.ppu := by cases r <;> rfl
@[simp] theorem State.setReg8_dma (s : State) (r : Reg8) (v : Byte) : (s.setReg8 r v).dma = s.dma := by cases r <;> rfl
@[simp] theorem State.setReg8_bus (s : State) (r : Reg8) (v : Byte) : (s.setReg8 r v).bus = s.bus := by cases r <;> rfl
@[simp] theorem State.setReg8_cart (s : State) (r : Reg8) (v : Byte) : (s.setReg8 r v).cart = s.cart := by cases r <;> rfl
@[simp] theorem State.setReg8_env (s : State) (r : Reg8) (v : Byte) : (s.setReg8 r v).env = s.env := by cases r <;> rfl
@[simp] theorem State.setReg8_params (s : State) (r : Reg8) (v : Byte) : (s.setReg8 r v).params = s.params := by cases r <;> rfl
@[simp] theorem State.setReg8_out (s : State) (r : Reg8) (v : Byte) : (s.setReg8 r v).out = s.out := by cases r <;> rfl
@[simp] theorem State.setReg8_ticks (s : State) (r : Reg8) (v : Byte) : (s.setReg8 r v).ticks = s.ticks := by cases r <;> rfl
@[simp] theorem State.setReg8_regs_f (s : State) (r : Reg8) (v : Byte) : (s.setReg8 r v).regs.f = s.regs.f := by cases r <;> rfl
@[simp] theorem State.setReg8_regs_sp (s : State) (r : Reg8) (v : Byte) : (s.setReg8 r v).regs.sp = s.regs.sp := by cases r <;> rfl
@[simp] theorem State.setReg8_regs_pc (s : State) (r : Reg8) (v : Byte) : (s.setReg8 r v).regs.pc = s.regs.pc := by cases r <;> rfl

/-! ### `State.setPair` -/

@[simp] theorem State.setPair_cpu (s : State) (p : Pair) (v : Word) : (s.setPair p v).cpu = s.cpu := by cases p <;> rfl
@[simp] theorem State.setPair_irq (s : State) (p : Pair) (v : Word) : (s.setPair p v).irq = s.irq := by cases p <;> rfl
@[simp] theorem State.setPair_timer (s : State) (p : Pair) (v : Word) : (s.setPair p v).timer = s.timer := by cases p <;> rfl
@[simp] theorem State.setPair_lcd (s : State) (p : Pair) (v : Word) : (s.setPair p v).lcd = s.lcd := by cases p <;> rfl
@[simp] theorem State.setPair_ppu (s : State) (p : Pair) (v : Word) : (s.setPair p v).ppu = s.ppu := by cases p <;> rfl
@[simp] theorem State.setPair_dma (s : State) (p : Pair) (v : Word) : (s.setPair p v).dma = s.dma := by cases p <;> rfl
@[simp] theorem State.setPair_bus (s : State) (p : Pair) (v : Word) : (s.setPair p v).bus = s.bus := by cases p <;> rfl
@[simp] theorem State.setPair_cart (s : State) (p : Pair) (v : Word) : (s.setPair p v).cart = s.cart := by cases p <;> rfl
@[simp] theorem State.setPair_env (s : State) (p : Pair) (v : Word) : (s.setPair p v).env = s.env := by cases p <;> rfl
@[simp] theorem State.setPair_params (s : State) (p : Pair) (v : Word) : (s.setPair p v).params = s.params := by cases p <;> rfl
@[simp] theorem State.setPair_out (s : State) (p : Pair) (v : Word) : (s.setPair p v).out = s.out := by cases p <;> rfl
@[simp] theorem State.setPair_ticks (s : State) (p : Pair) (v : Word) : (s.setPair p v).ticks = s.ticks := by cases p <;> rfl
@[simp] theorem State.setPair_regs_a (s : State) (p : Pair) (v : Word) : (s.setPair p v).regs.a = s.regs.a := by cases p <;> rfl
@[simp] theorem State.setPair_regs_f (s : State) (p : Pair) (v : Word) : (s.setPair p v).regs.f = s.regs.f := by cases p <;> rfl
@[simp] theorem State.setPair_regs_pc (s : State) (p : Pair) (v : Word) : (s.setPair p v).regs.pc = s.regs.pc := by cases p <;> rfl

/-! ### `State.setStackPair` -/

@[simp] theorem State.setStackPair_cpu (s : State) (q : StackPair) (v : Word) : (s.setStackPair q v).cpu = s.cpu := by cases q <;> rfl
@[simp] theorem State.setStackPair_irq (s : State) (q : StackPair) (v : Word) : (s.setStackPair q v).irq = s.irq := by cases q <;> rfl
@[simp] theorem State.setStackPair_timer (s : State) (q : StackPair) (v : Word) : (s.setStackPair q v).timer = s.timer := by cases q <;> rfl
@[simp] theorem State.setStackPair_lcd (s : State) (q : StackPair) (v : Word) : (s.setStackPair q v).lcd = s.lcd := by cases q <;> rfl
@[simp] theorem State.setStackPair_ppu (s : State) (q : StackPair) (v : Word) : (s.setStackPair q v).ppu = s.ppu := by cases q <;> rfl
@[simp] theorem State.setStackPair_dma (s : State) (q : StackPair) (v : Word) : (s.setStackPair q v).dma = s.dma := by cases q <;> rfl
@[simp] theorem State.setStackPair_bus (s : State) (q : StackPair) (v : Word) : (s.setStackPair q v).bus = s.bus := by cases q <;> rfl
@[simp] theorem State.setStackPair_cart (s : State) (q : StackPair) (v : Word) : (s.setStackPair q v).cart = s.cart := by cases q <;> rfl
@[simp] theorem State.setStackPair_env (s : State) (q : StackPair) (v : Word) : (s.setStackPair q v).env = s.env := by cases q <;> rfl
@[simp] theorem State.setStackPair_params (s : State) (q : StackPair) (v : Word) : (s.setStackPair q v).params = s.params := by cases q <;> rfl
@[simp] theorem State.setStackPair_out (s : State) (q : StackPair) (v : Word) : (s.setStackPair q v).out = s.out := by cases q <;> rfl
@[simp] theorem State.setStackPair_ticks (s : State) (q : StackPair) (v : Word) : (s.setStackPair q v).ticks = s.ticks := by cases q <;> rfl
@[simp] theorem State.setStackPair_regs_sp (s : State) (q : StackPair) (v : Word) : (s.setStackPair q v).regs.sp = s.regs.sp := by cases q <;> rfl
@[simp] theorem State.setStackPair_regs_pc (s : State) (q : StackPair) (v : Word) : (s.setStackPair q v).regs.pc = s.regs.pc := by cases q <;> rfl

/-! ### `State.drawn` -/

@[simp] theorem State.drawn_regs (s : State) : (s.drawn).regs = s.regs := rfl
@[simp] theorem State.drawn_cpu (s : State) : (s.drawn).cpu = s.cpu := rfl
@[simp] theorem State.drawn_irq (s : State) : (s.drawn).irq = s.irq := rfl
@[simp] theorem State.drawn_timer (s : State) : (s.drawn).timer = s.timer := rfl
@[simp] theorem State.drawn_lcd (s : State) : (s.drawn).lcd = s.lcd := rfl
@[simp] theorem State.drawn_ppu (s : State) : (s.drawn).ppu = s.ppu := rfl
@[simp] theorem State.drawn_dma (s : State) : (s.drawn).dma = s.dma := rfl
@[simp] theorem State.drawn_bus (s : State) : (s.drawn).bus = s.bus := rfl
@[simp] theorem State.drawn_cart (s : State) : (s.drawn).cart = s.cart := rfl
@[simp] theorem State.drawn_params (s : State) : (s.drawn).params = s.params := rfl
@[simp] theorem State.drawn_out (s : State) : (s.drawn).out = s.out := rfl
@[simp] theorem State.drawn_ticks (s : State) : (s.drawn).ticks = s.ticks := rfl
@[simp] theorem State.drawn_env_source (s : State) : (s.drawn).env.source = s.env.source := rfl

/-! ### `State.requestIrq` -/

@[simp] theorem State.requestIrq_regs (s : State) (k : IrqSource) : (s.requestIrq k).regs = s.regs := rfl
@[simp] theorem State.requestIrq_cpu (s : State) (k : IrqSource) : (s.requestIrq k).cpu = s.cpu := rfl
@[simp] theorem State.requestIrq_timer (s : State) (k : IrqSource) : (s.requestIrq k).timer = s.timer := rfl
@[simp] theorem State.requestIrq_lcd (s : State) (k : IrqSource) : (s.requestIrq k).lcd = s.lcd := rfl
@[simp] theorem State.requestIrq_ppu (s : State) (k : IrqSource) : (s.requestIrq k).ppu = s.ppu := rfl
@[simp] theorem State.requestIrq_dma (s : State) (k : IrqSource) : (s.requestIrq k).dma = s.dma := rfl
@[simp] theorem State.requestIrq_bus (s : State) (k : IrqSource) : (s.requestIrq k).bus = s.bus := rfl
@[simp] theorem State.requestIrq_cart (s : State) (k : IrqSource) : (s.requestIrq k).cart = s.cart := rfl
@[simp] theorem State.requestIrq_env (s : State) (k : IrqSource) : (s.requestIrq k).env = s.env := rfl
@[simp] theorem State.requestIrq_params (s : State) (k : IrqSource) : (s.requestIrq k).params = s.params := rfl
@[simp] theorem State.requestIrq_out (s : State) (k : IrqSource) : (s.requestIrq k).out = s.out := rfl
@[simp] theorem State.requestIrq_ticks (s : State) (k : IrqSource) : (s.requestIrq k).ticks = s.ticks := rfl
@[simp] theorem State.requestIrq_irq_ie (s : State) (k : IrqSource) : (s.requestIrq k).irq.ie = s.irq.ie := rfl

/-! ### `State.clearIrq` -/

@[simp] theorem State.clearIrq_regs (s : State) (k : IrqSource) : (s.clearIrq k).regs = s.regs := rfl
@[simp] theorem State.clearIrq_cpu (s : State) (k : IrqSource) : (s.clearIrq k).cpu = s.cpu := rfl
@[simp] theorem State.clearIrq_timer (s : State) (k : IrqSource) : (s.clearIrq k).timer = s.timer := rfl
@[simp] theorem State.clearIrq_lcd (s : State) (k : IrqSource) : (s.clearIrq k).lcd = s.lcd := rfl
@[simp] theorem State.clearIrq_ppu (s : State) (k : IrqSource) : (s.clearIrq k).ppu = s.ppu := rfl
@[simp] theorem State.clearIrq_dma (s : State) (k : IrqSource) : (s.clearIrq k).dma = s.dma := rfl
@[simp] theorem State.clearIrq_bus (s : State) (k : IrqSource) : (s.clearIrq k).bus = s.bus := rfl
@[simp] theorem State.clearIrq_cart (s : State) (k : IrqSource) : (s.clearIrq k).cart = s.cart := rfl
@[simp] theorem State.clearIrq_env (s : State) (k : IrqSource) : (s.clearIrq k).env = s.env := rfl
@[simp] theorem State.clearIrq_params (s : State) (k : IrqSource) : (s.clearIrq k).params = s.params := rfl
@[simp] theorem State.clearIrq_out (s : State) (k : IrqSource) : (s.clearIrq k).out = s.out := rfl
@[simp] theorem State.clearIrq_ticks (s : State) (k : IrqSource) : (s.clearIrq k).ticks = s.ticks := rfl
@[simp] theorem State.clearIrq_irq_ie (s : State) (k : IrqSource) : (s.clearIrq k).irq.ie = s.irq.ie := rfl

/-! ### `State.setRamByte` -/

@[simp] theorem State.setRamByte_regs (s : State) (o : Nat) (v : Byte) : (s.setRamByte o v).regs = s.regs := rfl
@[simp] theorem State.setRamByte_cpu (s : State) (o : Nat) (v : Byte) : (s.setRamByte o v).cpu = s.cpu := rfl
@[simp] theorem State.setRamByte_irq (s : State) (o : Nat) (v : Byte) : (s.setRamByte o v).irq = s.irq := rfl
@[simp] theorem State.setRamByte_timer (s : State) (o : Nat) (v : Byte) : (s.setRamByte o v).timer = s.timer := rfl
@[simp] theorem State.setRamByte_lcd (s : State) (o : Nat) (v : Byte) : (s.setRamByte o v).lcd = s.lcd := rfl
@[simp] theorem State.setRamByte_ppu (s : State) (o : Nat) (v : Byte) : (s.setRamByte o v).ppu = s.ppu := rfl
@[simp] theorem State.setRamByte_dma (s : State) (o : Nat) (v : Byte) : (s.setRamByte o v).dma = s.dma := rfl
@[simp] theorem State.setRamByte_cart (s : State) (o : Nat) (v : Byte) : (s.setRamByte o v).cart = s.cart := rfl
@[simp] theorem State.setRamByte_env (s : State) (o : Nat) (v : Byte) : (s.setRamByte o v).env = s.env := rfl
@[simp] theorem State.setRamByte_params (s : State) (o : Nat) (v : Byte) : (s.setRamByte o v).params = s.params := rfl
@[simp] theorem State.setRamByte_out (s : State) (o : Nat) (v : Byte) : (s.setRamByte o v).out = s.out := rfl
@[simp] theorem State.setRamByte_ticks (s : State) (o : Nat) (v : Byte) : (s.setRamByte o v).ticks = s.ticks := rfl
@[simp] theorem State.setRamByte_bus_bootOverlay (s : State) (o : Nat) (v : Byte) : (s.setRamByte o v).bus.bootOverlay = s.bus.bootOverlay := rfl
@[simp] theorem State.setRamByte_bus_bootRom (s : State) (o : Nat) (v : Byte) : (s.setRamByte o v).bus.bootRom = s.bus.bootRom := rfl
@[simp] theorem State.setRamByte_bus_cartRom (s : State) (o : Nat) (v : Byte) : (s.setRamByte o v).bus.cartRom = s.bus.cartRom := rfl
@[simp] theorem State.setRamByte_bus_cartRomLen (s : State) (o : Nat) (v : Byte) : (s.setRamByte o v).bus.cartRomLen = s.bus.cartRomLen := rfl
@[simp] theorem State.setRamByte_bus_cartRam (s : State) (o : Nat) (v : Byte) : (s.setRamByte o v).bus.cartRam = s.bus.cartRam := rfl

/-! ### `State.setCartRamByte` -/

@[simp] theorem State.setCartRamByte_regs (s : State) (o : Nat) (v : Byte) : (s.setCartRamByte o v).regs = s.regs := rfl
@[simp] theorem State.setCartRamByte_cpu (s : State) (o : Nat) (v : Byte) : (s.setCartRamByte o v).cpu = s.cpu := rfl
@[simp] theorem State.setCartRamByte_irq (s : State) (o : Nat) (v : Byte) : (s.setCartRamByte o v).irq = s.irq := rfl
@[simp] theorem State.setCartRamByte_timer (s : State) (o : Nat) (v : Byte) : (s.setCartRamByte o v).timer = s.timer := rfl
@[simp] theorem State.setCartRamByte_lcd (s : State) (o : Nat) (v : Byte) : (s.setCartRamByte o v).lcd = s.lcd := rfl
@[simp] theorem State.setCartRamByte_ppu (s : State) (o : Nat) (v : Byte) : (s.setCartRamByte o v).ppu = s.ppu := rfl
@[simp] theorem State.setCartRamByte_dma (s : State) (o : Nat) (v : Byte) : (s.setCartRamByte o v).dma = s.dma := rfl
@[simp] theorem State.setCartRamByte_cart (s : State) (o : Nat) (v : Byte) : (s.setCartRamByte o v).cart = s.cart := rfl
@[simp] theorem State.setCartRamByte_env (s : State) (o : Nat) (v : Byte) : (s.setCartRamByte o v).env = s.env := rfl
@[simp] theorem State.setCartRamByte_params (s : State) (o : Nat) (v : Byte) : (s.setCartRamByte o v).params = s.params := rfl
@[simp] theorem State.setCartRamByte_out (s : State) (o : Nat) (v : Byte) : (s.setCartRamByte o v).out = s.out := rfl
@[simp] theorem State.setCartRamByte_ticks (s : State) (o : Nat) (v : Byte) : (s.setCartRamByte o v).ticks = s.ticks := rfl
@[simp] theorem State.setCartRamByte_bus_bootOverlay (s : State) (o : Nat) (v : Byte) : (s.setCartRamByte o v).bus.bootOverlay = s.bus.bootOverlay := rfl
@[simp] theorem State.setCartRamByte_bus_ram (s : State) (o : Nat) (v : Byte) : (s.setCartRamByte o v).bus.ram = s.bus.ram := rfl
@[simp] theorem State.setCartRamByte_bus_bootRom (s : State) (o : Nat) (v : Byte) : (s.setCartRamByte o v).bus.bootRom = s.bus.bootRom := rfl
@[simp] theorem State.setCartRamByte_bus_cartRom (s : State) (o : Nat) (v : Byte) : (s.setCartRamByte o v).bus.cartRom = s.bus.cartRom := rfl
@[simp] theorem State.setCartRamByte_bus_cartRomLen (s : State) (o : Nat) (v : Byte) : (s.setCartRamByte o v).bus.cartRomLen = s.bus.cartRomLen := rfl

/-! ### What the updates write -/

@[simp] theorem State.cost_cpuWait (s : State) (m : Nat) : (s.cost m).cpu.cpuWait = 4 * m - 1 := rfl
@[simp] theorem State.setPc_pc (s : State) (v : Word) : (s.setPc v).regs.pc = v := rfl
@[simp] theorem State.setSp_sp (s : State) (v : Word) : (s.setSp v).regs.sp = v := rfl
@[simp] theorem State.setF_f (s : State) (v : Byte) : (s.setF v).regs.f = v &&& 0xF0 := rfl
@[simp] theorem State.setFlags_f (s : State) (z n h c : Bool) : (s.setFlags z n h c).regs.f = packFlags z n h c := rfl
@[simp] theorem State.drawn_draws (s : State) : s.drawn.env.draws = s.env.draws + 1 := rfl
@[simp] theorem State.requestIrq_ifl (s : State) (k : IrqSource) : (s.requestIrq k).irq.ifl = s.irq.ifl ||| irqMask k := rfl
@[simp] theorem State.clearIrq_ifl (s : State) (k : IrqSource) : (s.clearIrq k).irq.ifl = s.irq.ifl &&& ~~~irqMask k := rfl
@[simp] theorem State.setRamByte_ram (s : State) (o : Nat) (v : Byte) :
    (s.setRamByte o v).bus.ram = Memory.write (Config.unlisted .ram) s.bus.ram o v := rfl

/-- The flags that `packFlags` packs. -/
theorem packFlags_bits (z n h c : Bool) :
    (packFlags z n h c).getLsbD 7 = z ∧ (packFlags z n h c).getLsbD 6 = n ∧ (packFlags z n h c).getLsbD 5 = h
      ∧ (packFlags z n h c).getLsbD 4 = c ∧ packFlags z n h c &&& 0x0F = 0 := by
  cases z <;> cases n <;> cases h <;> cases c <;> decide

@[simp] theorem State.setFlags_flagZ (s : State) (z n h c : Bool) : (s.setFlags z n h c).flagZ = z := (packFlags_bits z n h c).1
@[simp] theorem State.setFlags_flagN (s : State) (z n h c : Bool) : (s.setFlags z n h c).flagN = n := (packFlags_bits z n h c).2.1
@[simp] theorem State.setFlags_flagH (s : State) (z n h c : Bool) : (s.setFlags z n h c).flagH = h := (packFlags_bits z n h c).2.2.1
@[simp] theorem State.setFlags_flagC (s : State) (z n h c : Bool) : (s.setFlags z n h c).flagC = c := (packFlags_bits z n h c).2.2.2.1

/-- A register reads back what was written (10_state.md R21). -/
@[simp] theorem State.reg8_setReg8 (s : State) (r : Reg8) (v : Byte) : (s.setReg8 r v).reg8 r = v := by
  cases r <;> rfl

/-- A write of one register leaves the others (R21). -/
theorem State.reg8_setReg8_ne (s : State) (r x : Reg8) (v : Byte) (h : x ≠ r) : (s.setReg8 r v).reg8 x = s.reg8 x := by
  cases r <;> cases x <;> first | rfl | exact absurd rfl h

/-- A write of a flag, of SP or of PC leaves the 8-bit registers. -/
@[simp] theorem State.reg8_setFlags (s : State) (z n h c : Bool) (r : Reg8) : (s.setFlags z n h c).reg8 r = s.reg8 r := by
  cases r <;> rfl
@[simp] theorem State.reg8_setSp (s : State) (v : Word) (r : Reg8) : (s.setSp v).reg8 r = s.reg8 r := by cases r <;> rfl
@[simp] theorem State.reg8_setPc (s : State) (v : Word) (r : Reg8) : (s.setPc v).reg8 r = s.reg8 r := by cases r <;> rfl

end Sys2Proof.Machine
end

