-- ==== Sys2Proof/Laws/Memory.lean ====
section
/-! SUPPORT. The laws of the byte stores: a byte reads back, a write leaves the other keys alone and keeps the canonical form, and equal
reads mean equal stores. -/

namespace Sys2Proof.Machine

theorem Memory.wfFrom_cons {d : Byte} {lo k : Nat} {v : Byte} {m : Memory} :
    Memory.wfFrom d lo ((k, v) :: m) = true ↔ lo ≤ k ∧ v ≠ d ∧ Memory.wfFrom d (k + 1) m = true := by
  simp [Memory.wfFrom, and_assoc]

/-- The canonical form above a bound is one above any lower bound. -/
theorem Memory.wfFrom_mono {d : Byte} {m : Memory} {lo lo' : Nat} (h : lo' ≤ lo) (w : Memory.wfFrom d lo m = true) :
    Memory.wfFrom d lo' m = true := by
  cases m with
  | nil => rfl
  | cons e m => obtain ⟨k, v⟩ := e; rw [Memory.wfFrom_cons] at w ⊢; exact ⟨by omega, w.2⟩

/-- A key below the bound is not listed. -/
theorem Memory.read_below {d : Byte} {m : Memory} {lo a : Nat} (w : Memory.wfFrom d lo m = true) (h : a < lo) :
    Memory.read d m a = d := by
  cases m with
  | nil => rfl
  | cons e m =>
    obtain ⟨k, v⟩ := e
    rw [Memory.wfFrom_cons] at w
    simp only [Memory.read]
    rw [if_neg (by omega), if_pos (by omega)]

/-- A write keeps the canonical form. -/
theorem Memory.wfFrom_write {d : Byte} {m : Memory} {lo a : Nat} (v : Byte) (w : Memory.wfFrom d lo m = true) (h : lo ≤ a) :
    Memory.wfFrom d lo (Memory.write d m a v) = true := by
  induction m generalizing lo with
  | nil => by_cases hv : v = d <;> simp [Memory.write, hv, Memory.wfFrom, h]
  | cons e m ih =>
    obtain ⟨k, x⟩ := e
    have w' := Memory.wfFrom_cons.1 w
    simp only [Memory.write]
    by_cases h1 : a < k
    · rw [if_pos h1]
      by_cases hv : v = d
      · rw [if_pos hv]; exact w
      · rw [if_neg hv, Memory.wfFrom_cons, Memory.wfFrom_cons]; exact ⟨h, hv, by omega, w'.2⟩
    · rw [if_neg h1]
      by_cases h2 : a = k
      · subst h2
        rw [if_pos rfl]
        by_cases hv : v = d
        · rw [if_pos hv]; exact Memory.wfFrom_mono (by omega) w'.2.2
        · rw [if_neg hv, Memory.wfFrom_cons]; exact ⟨h, hv, w'.2.2⟩
      · rw [if_neg h2, Memory.wfFrom_cons]; exact ⟨w'.1, w'.2.1, ih w'.2.2 (by omega)⟩

/-- A write keeps the canonical form. -/
theorem Memory.wf_write {d : Byte} {m : Memory} (a : Nat) (v : Byte) (w : Memory.wf d m = true) :
    Memory.wf d (Memory.write d m a v) = true := Memory.wfFrom_write v w (Nat.zero_le a)

/-- What a canonical store reads as after a write above its bound. -/
theorem Memory.read_write_from {d : Byte} {m : Memory} {lo : Nat} (a b : Nat) (v : Byte) (w : Memory.wfFrom d lo m = true) :
    Memory.read d (Memory.write d m a v) b = if b = a then v else Memory.read d m b := by
  induction m generalizing lo with
  | nil =>
    by_cases hv : v = d
    · simp [Memory.write, Memory.read, hv]
    · simp only [Memory.write, if_neg hv, Memory.read]; split <;> simp
  | cons e m ih =>
    obtain ⟨k, x⟩ := e
    have w' := Memory.wfFrom_cons.1 w
    have ih' := ih w'.2.2
    simp only [Memory.write]
    by_cases h1 : a < k
    · rw [if_pos h1]
      by_cases hv : v = d
      · rw [if_pos hv]
        by_cases hb : b = a
        · rw [if_pos hb, hb, hv]; simp only [Memory.read]; rw [if_neg (by omega), if_pos h1]
        · rw [if_neg hb]
      · rw [if_neg hv]
        by_cases hb : b = a
        · simp [Memory.read, hb]
        · rw [if_neg hb]
          by_cases hba : b < a
          · simp only [Memory.read]; rw [if_neg hb, if_pos hba, if_neg (by omega), if_pos (by omega)]
          · simp only [Memory.read]; rw [if_neg hb, if_neg hba]
    · rw [if_neg h1]
      by_cases h2 : a = k
      · subst h2
        rw [if_pos rfl]
        by_cases hb : b = a
        · rw [if_pos hb, hb]
          by_cases hv : v = d
          · rw [if_pos hv, hv]; exact Memory.read_below w'.2.2 (by omega)
          · rw [if_neg hv]; simp [Memory.read]
        · rw [if_neg hb]
          by_cases hv : v = d
          · rw [if_pos hv]
            by_cases hba : b < a
            · simp only [Memory.read]; rw [if_neg hb, if_pos hba]; exact Memory.read_below w'.2.2 (by omega)
            · simp only [Memory.read]; rw [if_neg hb, if_neg hba]
          · rw [if_neg hv]; simp only [Memory.read]; rw [if_neg hb, if_neg hb]
      · rw [if_neg h2]
        by_cases hb : b = a
        · simp only [Memory.read]; rw [if_pos hb, if_neg (by omega), if_neg (by omega), ih', if_pos hb]
        · simp only [Memory.read]; rw [ih', if_neg hb, if_neg hb]

/-- What a canonical store reads as after a write. -/
theorem Memory.read_write {d : Byte} {m : Memory} (w : Memory.wf d m = true) (a b : Nat) (v : Byte) :
    Memory.read d (Memory.write d m a v) b = if b = a then v else Memory.read d m b := Memory.read_write_from a b v w

/-- A byte written reads back. -/
theorem Memory.read_write_same {d : Byte} {m : Memory} (w : Memory.wf d m = true) (a : Nat) (v : Byte) :
    Memory.read d (Memory.write d m a v) a = v := by rw [Memory.read_write w, if_pos rfl]

/-- A write leaves the other keys alone. -/
theorem Memory.read_write_ne {d : Byte} {m : Memory} (w : Memory.wf d m = true) {a b : Nat} (v : Byte) (h : b ≠ a) :
    Memory.read d (Memory.write d m a v) b = Memory.read d m b := by rw [Memory.read_write w, if_neg h]

/-- Canonical stores that read the same are the same data. -/
theorem Memory.ext_from {d : Byte} {m m' : Memory} {lo : Nat} (w : Memory.wfFrom d lo m = true) (w' : Memory.wfFrom d lo m' = true)
    (h : ∀ a, Memory.read d m a = Memory.read d m' a) : m = m' := by
  induction m generalizing m' lo with
  | nil =>
    cases m' with
    | nil => rfl
    | cons e m' =>
      obtain ⟨k, v⟩ := e
      have := h k
      simp only [Memory.read, if_true] at this
      exact absurd this.symm (Memory.wfFrom_cons.1 w').2.1
  | cons e m ih =>
    obtain ⟨k, v⟩ := e
    have wk := Memory.wfFrom_cons.1 w
    cases m' with
    | nil =>
      have := h k
      simp only [Memory.read, if_true] at this
      exact absurd this wk.2.1
    | cons e' m' =>
      obtain ⟨k', v'⟩ := e'
      have wk' := Memory.wfFrom_cons.1 w'
      have hk := h k
      have hk' := h k'
      simp only [Memory.read, if_true] at hk hk'
      have kk : k = k' := by
        rcases Nat.lt_trichotomy k k' with hlt | heq | hgt
        · rw [if_neg (by omega), if_pos hlt] at hk; exact absurd hk wk.2.1
        · exact heq
        · rw [if_neg (by omega), if_pos hgt] at hk'; exact absurd hk'.symm wk'.2.1
      subst kk
      rw [if_pos rfl] at hk
      subst hk
      congr 1
      refine ih wk.2.2 wk'.2.2 fun a => ?_
      by_cases ha : a < k + 1
      · rw [Memory.read_below wk.2.2 ha, Memory.read_below wk'.2.2 ha]
      · have := h a
        simp only [Memory.read] at this
        rwa [if_neg (by omega), if_neg (by omega), if_neg (by omega), if_neg (by omega)] at this

/-- Canonical stores that read the same are the same data. -/
theorem Memory.ext {d : Byte} {m m' : Memory} (w : Memory.wf d m = true) (w' : Memory.wf d m' = true)
    (h : ∀ a, Memory.read d m a = Memory.read d m' a) : m = m' := Memory.ext_from w w' h

/-- An image is in canonical form. -/
theorem Memory.wf_ofBytes (d : Byte) (o : Nat) (bs : List Byte) : Memory.wf d (Memory.ofBytes d o bs) = true := by
  induction bs generalizing o with
  | nil => rfl
  | cons v vs ih => exact Memory.wf_write o v (ih (o + 1))

/-- What an image reads as. -/
theorem Memory.read_ofBytes (d : Byte) (o : Nat) (bs : List Byte) (a : Nat) :
    Memory.read d (Memory.ofBytes d o bs) a = if o ≤ a then bs.getD (a - o) d else d := by
  induction bs generalizing o with
  | nil => simp [Memory.ofBytes, Memory.read]
  | cons v vs ih =>
    rw [Memory.ofBytes, Memory.read_write (Memory.wf_ofBytes d (o + 1) vs), ih]
    by_cases h : a = o
    · subst h; simp
    · by_cases h2 : o ≤ a
      · rw [if_neg h, if_pos (by omega), if_pos h2, show a - o = (a - (o + 1)) + 1 by omega]; simp
      · rw [if_neg h, if_neg (by omega), if_neg h2]

/-- The power-on RAM is in canonical form. -/
theorem wf_initRam (l : List (Word × Byte)) : Memory.wf (Config.unlisted .ram) (initRam l) = true := by
  induction l with
  | nil => rfl
  | cons e l ih =>
    obtain ⟨a, v⟩ := e
    simp only [initRam]
    split
    · exact Memory.wf_write _ v ih
    · exact ih

/-- The power-on cartridge RAM is in canonical form. -/
theorem wf_initCartRam (l : List (Nat × Byte)) : Memory.wf (Config.unlisted .cartRam) (initCartRam l) = true := by
  induction l with
  | nil => rfl
  | cons e l ih => exact Memory.wf_write e.1 e.2 ih

/-- A byte of the power-on RAM: the first listed pair that names its key, else what unlisted RAM reads as. -/
theorem initRam_read (l : List (Word × Byte)) (k : Nat) :
    Memory.read (Config.unlisted .ram) (initRam l) k =
      ((l.find? fun e => ramKey e.1 == some k).map (·.2)).getD (Config.unlisted .ram) := by
  induction l with
  | nil => rfl
  | cons e l ih =>
    obtain ⟨a, v⟩ := e
    unfold initRam
    rw [List.find?_cons]
    cases hk : ramKey a with
    | none => simpa [hk] using ih
    | some j =>
      refine (Memory.read_write (wf_initRam l) j k v).trans ?_
      by_cases h : k = j
      · subst h; simp
      · rw [if_neg h, ih, show (some j == some k) = false by simpa using Ne.symm h]

/-- A byte of the power-on cartridge RAM, the same way. -/
theorem initCartRam_read (l : List (Nat × Byte)) (k : Nat) :
    Memory.read (Config.unlisted .cartRam) (initCartRam l) k =
      ((l.find? fun e => e.1 == k).map (·.2)).getD (Config.unlisted .cartRam) := by
  induction l with
  | nil => rfl
  | cons e l ih =>
    obtain ⟨a, v⟩ := e
    unfold initCartRam
    rw [List.find?_cons]
    refine (Memory.read_write (wf_initCartRam l) a k v).trans ?_
    by_cases h : k = a
    · subst h; simp
    · rw [if_neg h, ih, show (a == k) = false by simpa using Ne.symm h]

/-- A byte of RAM after a write of RAM. -/
theorem State.ramByte_setRamByte {s : State} (w : Memory.wf (Config.unlisted .ram) s.bus.ram = true) (o k : Nat) (v : Byte) :
    (s.setRamByte o v).ramByte k = if k = o then v else s.ramByte k := Memory.read_write w o k v

/-- A write of RAM keeps the byte stores in canonical form. -/
theorem MemInv.setRamByte {s : State} (h : MemInv s) (o : Nat) (v : Byte) : MemInv (s.setRamByte o v) :=
  ⟨Memory.wf_write o v h.1, h.2⟩

/-- A write of cartridge RAM keeps the byte stores in canonical form. -/
theorem MemInv.setCartRamByte {s : State} (h : MemInv s) (o : Nat) (v : Byte) : MemInv (s.setCartRamByte o v) :=
  ⟨h.1, h.2.1, h.2.2.1, Memory.wf_write _ v h.2.2.2.1, h.2.2.2.2⟩

/-- The byte stores of the reset state are in canonical form. -/
theorem memInv_reset : MemInv State.reset := by unfold MemInv; decide

end Sys2Proof.Machine
end

