-- ==== Sys2Proof/Laws/Bus.lean ====
section
/-! SUPPORT. What a CPU load and a CPU store can do to the state: each field that they leave alone, the invariants that they keep, and what RAM
reads as after a store. -/

namespace Sys2Proof.Machine

/-! ### The address decode by ranges (20_memory.md R50) -/

theorem busDecode_vram {a : Word} (ov : Bool) (h : 0x8000 ≤ a.toNat) (h' : a.toNat ≤ 0x9FFF) :
    busDecode a ov = (.vram, a.toNat - 0x8000) := by
  simp (disch := omega) only [busDecode, if_neg, if_pos]

theorem busDecode_eram {a : Word} (ov : Bool) (h : 0xA000 ≤ a.toNat) (h' : a.toNat ≤ 0xBFFF) :
    busDecode a ov = (.eram, a.toNat - 0xA000) := by
  simp (disch := omega) only [busDecode, if_neg, if_pos]

theorem busDecode_wram0 {a : Word} (ov : Bool) (h : 0xC000 ≤ a.toNat) (h' : a.toNat ≤ 0xCFFF) :
    busDecode a ov = (.wram0, a.toNat - 0xC000) := by
  simp (disch := omega) only [busDecode, if_neg, if_pos]

theorem busDecode_wram1 {a : Word} (ov : Bool) (h : 0xD000 ≤ a.toNat) (h' : a.toNat ≤ 0xDFFF) :
    busDecode a ov = (.wram1, a.toNat - 0xD000) := by
  simp (disch := omega) only [busDecode, if_neg, if_pos]

theorem busDecode_echo0 {a : Word} (ov : Bool) (h : 0xE000 ≤ a.toNat) (h' : a.toNat ≤ 0xEFFF) :
    busDecode a ov = (.wram0, a.toNat - 0xE000) := by
  simp (disch := omega) only [busDecode, if_neg, if_pos]

theorem busDecode_echo1 {a : Word} (ov : Bool) (h : 0xF000 ≤ a.toNat) (h' : a.toNat ≤ 0xFDFF) :
    busDecode a ov = (.wram1, a.toNat - 0xF000) := by
  simp (disch := omega) only [busDecode, if_neg, if_pos]

theorem busDecode_oam {a : Word} (ov : Bool) (h : 0xFE00 ≤ a.toNat) (h' : a.toNat ≤ 0xFE9F) :
    busDecode a ov = (.oam, a.toNat - 0xFE00) := by
  simp (disch := omega) only [busDecode, if_neg, if_pos]

theorem busDecode_unmapped {a : Word} (ov : Bool) (h : 0xFEA0 ≤ a.toNat) (h' : a.toNat ≤ 0xFEFF) :
    busDecode a ov = (.unmapped, a.toNat - 0xFEA0) := by
  simp (disch := omega) only [busDecode, if_neg, if_pos]

theorem busDecode_io {a : Word} (ov : Bool) (h : 0xFF00 ≤ a.toNat) (h' : a.toNat ≤ 0xFF7F) :
    busDecode a ov = (.io, a.toNat - 0xFF00) := by
  simp (disch := omega) only [busDecode, if_neg, if_pos]

theorem busDecode_hram {a : Word} (ov : Bool) (h : 0xFF80 ≤ a.toNat) (h' : a.toNat ≤ 0xFFFE) :
    busDecode a ov = (.hram, a.toNat - 0xFF80) := by
  simp (disch := omega) only [busDecode, if_neg, if_pos]

theorem busDecode_ie {a : Word} (ov : Bool) (h : a.toNat = 0xFFFF) : busDecode a ov = (.ie, 0) := by
  simp (disch := omega) only [busDecode, if_neg]

theorem busDecode_boot {a : Word} (h : a.toNat ≤ 0x00FF) : busDecode a true = (.boot, a.toNat) := by
  simp [busDecode, h]

theorem busDecode_romA {a : Word} {ov : Bool} (h : ov = false ∨ 0x0100 ≤ a.toNat) (h' : a.toNat ≤ 0x3FFF) :
    busDecode a ov = (.romA, a.toNat) := by
  have h0 : ¬(ov = true ∧ a.toNat ≤ 0x00FF) := fun c => h.elim (fun e => by simp [e] at c) fun e => by omega
  simp only [busDecode, if_neg h0, if_pos h']

theorem busDecode_romB {a : Word} (ov : Bool) (h : 0x4000 ≤ a.toNat) (h' : a.toNat ≤ 0x7FFF) :
    busDecode a ov = (.romB, a.toNat - 0x4000) := by
  simp (disch := omega) only [busDecode, if_neg, if_pos]

theorem busDecode_rom {a : Word} (ov : Bool) (h : a.toNat ≤ 0x7FFF) :
    (busDecode a ov).1 = .boot ∨ (busDecode a ov).1 = .romA ∨ (busDecode a ov).1 = .romB := by
  unfold busDecode; dsimp only
  by_cases h0 : ov = true ∧ a.toNat ≤ 0x00FF
  · rw [if_pos h0]; exact .inl rfl
  · rw [if_neg h0]
    by_cases h1 : a.toNat ≤ 0x3FFF
    · rw [if_pos h1]; exact .inr (.inl rfl)
    · rw [if_neg h1, if_pos h]; exact .inr (.inr rfl)

/-- The key of the RAM byte behind an address, in closed form: the address itself, or 0x2000 less in the echo (R49). -/
theorem ramKey_eq (a : Word) :
    ramKey a =
      if (0x8000 ≤ a.toNat ∧ a.toNat ≤ 0x9FFF) ∨ (0xC000 ≤ a.toNat ∧ a.toNat ≤ 0xDFFF) ∨ (0xFE00 ≤ a.toNat ∧ a.toNat ≤ 0xFE9F)
          ∨ (0xFF80 ≤ a.toNat ∧ a.toNat ≤ 0xFFFE) then some a.toNat
      else if 0xE000 ≤ a.toNat ∧ a.toNat ≤ 0xFDFF then some (a.toNat - 0x2000)
      else none := by
  have ha := a.isLt
  unfold ramKey
  by_cases h1 : a.toNat ≤ 0x7FFF
  · rw [if_neg (by omega), if_neg (by omega)]
    rcases busDecode_rom false h1 with e | e | e <;> split <;> simp_all
  by_cases h2 : a.toNat ≤ 0x9FFF
  · rw [busDecode_vram _ (by omega) h2, if_pos (by omega)]; simp only; rw [show 0x8000 + (a.toNat - 0x8000) = a.toNat by omega]
  by_cases h3 : a.toNat ≤ 0xBFFF
  · rw [busDecode_eram _ (by omega) h3, if_neg (by omega), if_neg (by omega)]
  by_cases h4 : a.toNat ≤ 0xCFFF
  · rw [busDecode_wram0 _ (by omega) h4, if_pos (by omega)]; simp only; rw [show 0xC000 + (a.toNat - 0xC000) = a.toNat by omega]
  by_cases h5 : a.toNat ≤ 0xDFFF
  · rw [busDecode_wram1 _ (by omega) h5, if_pos (by omega)]; simp only; rw [show 0xD000 + (a.toNat - 0xD000) = a.toNat by omega]
  by_cases h6 : a.toNat ≤ 0xEFFF
  · rw [busDecode_echo0 _ (by omega) h6, if_neg (by omega), if_pos (by omega)]; simp only; rw [show 0xC000 + (a.toNat - 0xE000) = a.toNat - 0x2000 by omega]
  by_cases h7 : a.toNat ≤ 0xFDFF
  · rw [busDecode_echo1 _ (by omega) h7, if_neg (by omega), if_pos (by omega)]; simp only; rw [show 0xD000 + (a.toNat - 0xF000) = a.toNat - 0x2000 by omega]
  by_cases h8 : a.toNat ≤ 0xFE9F
  · rw [busDecode_oam _ (by omega) h8, if_pos (by omega)]; simp only; rw [show 0xFE00 + (a.toNat - 0xFE00) = a.toNat by omega]
  by_cases h9 : a.toNat ≤ 0xFEFF
  · rw [busDecode_unmapped _ (by omega) h9, if_neg (by omega), if_neg (by omega)]
  by_cases h10 : a.toNat ≤ 0xFF7F
  · rw [busDecode_io _ (by omega) h10, if_neg (by omega), if_neg (by omega)]
  by_cases h11 : a.toNat ≤ 0xFFFE
  · rw [busDecode_hram _ (by omega) h11, if_pos (by omega)]; simp only; rw [show 0xFF80 + (a.toNat - 0xFF80) = a.toNat by omega]
  · rw [busDecode_ie _ (by omega), if_neg (by omega), if_neg (by omega)]

/-! ### The kinds of store -/

theorem State.store_rom {s : State} {a : Word} (v : Byte) (h : a.toNat ≤ 0x7FFF) : s.store a v = s.cartStore a v := by
  unfold State.store
  rcases busDecode_rom s.bus.bootOverlay h with e | e | e <;> split <;> simp_all

theorem State.store_vram {s : State} {a : Word} (v : Byte) (h : 0x8000 ≤ a.toNat) (h' : a.toNat ≤ 0x9FFF) :
    s.store a v = if s.vramLocked then s else s.setRamByte a.toNat v := by
  unfold State.store; rw [busDecode_vram _ h h']; simp only; rw [show 0x8000 + (a.toNat - 0x8000) = a.toNat by omega]

theorem State.store_eram {s : State} {a : Word} (v : Byte) (h : 0xA000 ≤ a.toNat) (h' : a.toNat ≤ 0xBFFF) :
    s.store a v = if s.cartRamOn then s.setCartRamByte (a.toNat - 0xA000) v else s := by
  unfold State.store; rw [busDecode_eram _ h h']

theorem State.store_wram {s : State} {a : Word} (v : Byte) (h : 0xC000 ≤ a.toNat) (h' : a.toNat ≤ 0xDFFF) :
    s.store a v = s.setRamByte a.toNat v := by
  unfold State.store
  by_cases h1 : a.toNat ≤ 0xCFFF
  · rw [busDecode_wram0 _ h h1]; simp only; rw [show 0xC000 + (a.toNat - 0xC000) = a.toNat by omega]
  · rw [busDecode_wram1 _ (by omega) h']; simp only; rw [show 0xD000 + (a.toNat - 0xD000) = a.toNat by omega]

theorem State.store_echo {s : State} {a : Word} (v : Byte) (h : 0xE000 ≤ a.toNat) (h' : a.toNat ≤ 0xFDFF) :
    s.store a v = s.setRamByte (a.toNat - 0x2000) v := by
  unfold State.store
  by_cases h1 : a.toNat ≤ 0xEFFF
  · rw [busDecode_echo0 _ h h1]; simp only; rw [show 0xC000 + (a.toNat - 0xE000) = a.toNat - 0x2000 by omega]
  · rw [busDecode_echo1 _ (by omega) h']; simp only; rw [show 0xD000 + (a.toNat - 0xF000) = a.toNat - 0x2000 by omega]

theorem State.store_oam {s : State} {a : Word} (v : Byte) (h : 0xFE00 ≤ a.toNat) (h' : a.toNat ≤ 0xFE9F) :
    s.store a v = if s.oamLocked then s else s.setRamByte a.toNat v := by
  unfold State.store; rw [busDecode_oam _ h h']; simp only; rw [show 0xFE00 + (a.toNat - 0xFE00) = a.toNat by omega]

theorem State.store_unmapped {s : State} {a : Word} (v : Byte) (h : 0xFEA0 ≤ a.toNat) (h' : a.toNat ≤ 0xFEFF) : s.store a v = s := by
  unfold State.store; rw [busDecode_unmapped _ h h']

theorem State.store_io {s : State} {a : Word} (v : Byte) (h : 0xFF00 ≤ a.toNat) (h' : a.toNat ≤ 0xFF7F) :
    s.store a v = s.ioWrite v (ioReg (a.toNat - 0xFF00)) := by
  unfold State.store; rw [busDecode_io _ h h']

/-- A store to the register at offset n of the I/O region. -/
theorem State.store_reg (s : State) {a : Word} (v : Byte) {n : Nat} {r : IoReg} (h : a.toNat = 0xFF00 + n) (h' : n < 128) (hr : ioReg n = r) :
    s.store a v = s.ioWrite v r := by
  rw [State.store_io v (by omega) (by omega), h, show 0xFF00 + n - 0xFF00 = n by omega, hr]

/-- A load of the register at offset n of the I/O region. -/
theorem State.loadVal_reg (s : State) {a : Word} {n : Nat} {r : IoReg} (h : a.toNat = 0xFF00 + n) (h' : n < 128) (hr : ioReg n = r) :
    s.loadVal a = s.ioRead r := by
  unfold State.loadVal
  rw [busDecode_io _ (by omega) (by omega), h, show 0xFF00 + n - 0xFF00 = n by omega]
  exact congrArg s.ioRead hr

theorem State.store_hram {s : State} {a : Word} (v : Byte) (h : 0xFF80 ≤ a.toNat) (h' : a.toNat ≤ 0xFFFE) :
    s.store a v = s.setRamByte a.toNat v := by
  unfold State.store; rw [busDecode_hram _ h h']; simp only; rw [show 0xFF80 + (a.toNat - 0xFF80) = a.toNat by omega]

theorem State.store_ie {s : State} {a : Word} (v : Byte) (h : a.toNat = 0xFFFF) : s.store a v = { s with irq.ie := v } := by
  unfold State.store; rw [busDecode_ie _ h]

/-- The kinds of store: to the controller, to RAM of the block, to cartridge RAM, to a register, to IE, or none. -/
theorem State.store_cases (s : State) (a : Word) (v : Byte) :
    (a.toNat ≤ 0x7FFF ∧ s.store a v = s.cartStore a v)
      ∨ (∃ k, ramKey a = some k ∧ (s.store a v = s.setRamByte k v ∨ s.store a v = s))
      ∨ (0xA000 ≤ a.toNat ∧ a.toNat ≤ 0xBFFF ∧ (s.store a v = s.setCartRamByte (a.toNat - 0xA000) v ∨ s.store a v = s))
      ∨ (0xFEA0 ≤ a.toNat ∧ a.toNat ≤ 0xFEFF ∧ s.store a v = s)
      ∨ (0xFF00 ≤ a.toNat ∧ a.toNat ≤ 0xFF7F ∧ s.store a v = s.ioWrite v (ioReg (a.toNat - 0xFF00)))
      ∨ (a.toNat = 0xFFFF ∧ s.store a v = { s with irq.ie := v }) := by
  have ha := a.isLt
  by_cases h1 : a.toNat ≤ 0x7FFF
  · exact .inl ⟨h1, State.store_rom v h1⟩
  by_cases h2 : a.toNat ≤ 0x9FFF
  · refine .inr (.inl ⟨a.toNat, by rw [ramKey_eq, if_pos (by omega)], ?_⟩)
    rw [State.store_vram v (by omega) h2]; by_cases hl : s.vramLocked = true <;> simp [hl]
  by_cases h3 : a.toNat ≤ 0xBFFF
  · refine .inr (.inr (.inl ⟨by omega, h3, ?_⟩))
    rw [State.store_eram v (by omega) h3]; by_cases hl : s.cartRamOn = true <;> simp [hl]
  by_cases h4 : a.toNat ≤ 0xDFFF
  · exact .inr (.inl ⟨a.toNat, by rw [ramKey_eq, if_pos (by omega)], .inl (State.store_wram v (by omega) h4)⟩)
  by_cases h5 : a.toNat ≤ 0xFDFF
  · exact .inr (.inl ⟨a.toNat - 0x2000, by rw [ramKey_eq, if_neg (by omega), if_pos (by omega)], .inl (State.store_echo v (by omega) h5)⟩)
  by_cases h6 : a.toNat ≤ 0xFE9F
  · refine .inr (.inl ⟨a.toNat, by rw [ramKey_eq, if_pos (by omega)], ?_⟩)
    rw [State.store_oam v (by omega) h6]; by_cases hl : s.oamLocked = true <;> simp [hl]
  by_cases h7 : a.toNat ≤ 0xFEFF
  · exact .inr (.inr (.inr (.inl ⟨by omega, h7, State.store_unmapped v (by omega) h7⟩)))
  by_cases h8 : a.toNat ≤ 0xFF7F
  · exact .inr (.inr (.inr (.inr (.inl ⟨by omega, h8, State.store_io v (by omega) h8⟩))))
  by_cases h9 : a.toNat ≤ 0xFFFE
  · exact .inr (.inl ⟨a.toNat, by rw [ramKey_eq, if_pos (by omega)], .inl (State.store_hram v (by omega) h9)⟩)
  · exact .inr (.inr (.inr (.inr (.inr ⟨by omega, State.store_ie v (by omega)⟩))))

/-! ### Loads -/

/-- A load changes nothing but the number of draws (20_memory.md R64). -/
theorem State.afterLoad_eq (s : State) (a : Word) : s.afterLoad a = s ∨ s.afterLoad a = s.drawn := by
  unfold State.afterLoad; split <;> simp

@[simp] theorem State.afterLoad_regs (s : State) (a : Word) : (s.afterLoad a).regs = s.regs := by
  unfold State.afterLoad; split <;> rfl
@[simp] theorem State.afterLoad_cpu (s : State) (a : Word) : (s.afterLoad a).cpu = s.cpu := by
  unfold State.afterLoad; split <;> rfl
@[simp] theorem State.afterLoad_irq (s : State) (a : Word) : (s.afterLoad a).irq = s.irq := by
  unfold State.afterLoad; split <;> rfl
@[simp] theorem State.afterLoad_timer (s : State) (a : Word) : (s.afterLoad a).timer = s.timer := by
  unfold State.afterLoad; split <;> rfl
@[simp] theorem State.afterLoad_lcd (s : State) (a : Word) : (s.afterLoad a).lcd = s.lcd := by
  unfold State.afterLoad; split <;> rfl
@[simp] theorem State.afterLoad_ppu (s : State) (a : Word) : (s.afterLoad a).ppu = s.ppu := by
  unfold State.afterLoad; split <;> rfl
@[simp] theorem State.afterLoad_dma (s : State) (a : Word) : (s.afterLoad a).dma = s.dma := by
  unfold State.afterLoad; split <;> rfl
@[simp] theorem State.afterLoad_bus (s : State) (a : Word) : (s.afterLoad a).bus = s.bus := by
  unfold State.afterLoad; split <;> rfl
@[simp] theorem State.afterLoad_cart (s : State) (a : Word) : (s.afterLoad a).cart = s.cart := by
  unfold State.afterLoad; split <;> rfl
@[simp] theorem State.afterLoad_source (s : State) (a : Word) : (s.afterLoad a).env.source = s.env.source := by
  unfold State.afterLoad; split <;> rfl
@[simp] theorem State.afterLoad_params (s : State) (a : Word) : (s.afterLoad a).params = s.params := by
  unfold State.afterLoad; split <;> rfl
@[simp] theorem State.afterLoad_out (s : State) (a : Word) : (s.afterLoad a).out = s.out := by
  unfold State.afterLoad; split <;> rfl
@[simp] theorem State.afterLoad_ticks (s : State) (a : Word) : (s.afterLoad a).ticks = s.ticks := by
  unfold State.afterLoad; split <;> rfl

/-! ### Stores -/

/-- Everything that a store to a register of the I/O region leaves alone. -/
theorem State.ioWrite_frame (s : State) (v : Byte) (r : IoReg) :
    (s.ioWrite v r).regs = s.regs ∧ (s.ioWrite v r).cpu = s.cpu ∧ (s.ioWrite v r).irq.ie = s.irq.ie ∧ (s.ioWrite v r).cart = s.cart
      ∧ (s.ioWrite v r).env = s.env ∧ (s.ioWrite v r).params = s.params ∧ (s.ioWrite v r).out = s.out
      ∧ (s.ioWrite v r).ticks = s.ticks ∧ (s.ioWrite v r).bus.ram = s.bus.ram ∧ (s.ioWrite v r).bus.cartRam = s.bus.cartRam
      ∧ (s.ioWrite v r).bus.bootRom = s.bus.bootRom ∧ (s.ioWrite v r).bus.cartRom = s.bus.cartRom
      ∧ (s.ioWrite v r).bus.cartRomLen = s.bus.cartRomLen
      ∧ ((s.ioWrite v r).bus.bootOverlay = true → s.bus.bootOverlay = true)
      ∧ (r ≠ .ifl → (s.ioWrite v r).irq = s.irq) := by
  cases r <;> simp only [State.ioWrite] <;> try (split)
  all_goals simp

/-- Everything that a store to the controller leaves alone: all but the controller and the number of draws. -/
theorem State.cartStore_frame (s : State) (a : Word) (v : Byte) :
    (s.cartStore a v).regs = s.regs ∧ (s.cartStore a v).cpu = s.cpu ∧ (s.cartStore a v).irq = s.irq
      ∧ (s.cartStore a v).timer = s.timer ∧ (s.cartStore a v).lcd = s.lcd ∧ (s.cartStore a v).ppu = s.ppu
      ∧ (s.cartStore a v).dma = s.dma ∧ (s.cartStore a v).bus = s.bus ∧ (s.cartStore a v).env.source = s.env.source
      ∧ (s.cartStore a v).params = s.params ∧ (s.cartStore a v).out = s.out ∧ (s.cartStore a v).ticks = s.ticks := by
  unfold State.cartStore
  split
  · simp
  · split <;> simp
  · simp
  · simp

/-- Everything that no store changes. -/
theorem State.store_frame (s : State) (a : Word) (v : Byte) :
    (s.store a v).regs = s.regs ∧ (s.store a v).cpu = s.cpu ∧ (s.store a v).params = s.params ∧ (s.store a v).out = s.out
      ∧ (s.store a v).ticks = s.ticks ∧ (s.store a v).env.source = s.env.source ∧ (s.store a v).bus.bootRom = s.bus.bootRom
      ∧ (s.store a v).bus.cartRom = s.bus.cartRom ∧ (s.store a v).bus.cartRomLen = s.bus.cartRomLen
      ∧ ((s.store a v).bus.bootOverlay = true → s.bus.bootOverlay = true) := by
  rcases s.store_cases a v with ⟨_, h⟩ | ⟨k, _, h | h⟩ | ⟨_, _, h | h⟩ | ⟨_, _, h⟩ | ⟨_, _, h⟩ | ⟨_, h⟩
  · have f := s.cartStore_frame a v; rw [h]; simp [f]
  · rw [h]; simp
  · rw [h]; simp
  · rw [h]; simp
  · rw [h]; simp
  · rw [h]; simp
  · have f := s.ioWrite_frame v (ioReg (a.toNat - 0xFF00)); rw [h]; simp [f]; exact f.2.2.2.2.2.2.2.2.2.2.2.2.2.1
  · rw [h]; simp

@[simp] theorem State.store_regs (s : State) (a : Word) (v : Byte) : (s.store a v).regs = s.regs := (s.store_frame a v).1
@[simp] theorem State.store_cpu (s : State) (a : Word) (v : Byte) : (s.store a v).cpu = s.cpu := (s.store_frame a v).2.1
@[simp] theorem State.store_params (s : State) (a : Word) (v : Byte) : (s.store a v).params = s.params := (s.store_frame a v).2.2.1
@[simp] theorem State.store_out (s : State) (a : Word) (v : Byte) : (s.store a v).out = s.out := (s.store_frame a v).2.2.2.1
@[simp] theorem State.store_ticks (s : State) (a : Word) (v : Byte) : (s.store a v).ticks = s.ticks := (s.store_frame a v).2.2.2.2.1
@[simp] theorem State.store_source (s : State) (a : Word) (v : Byte) : (s.store a v).env.source = s.env.source :=
  (s.store_frame a v).2.2.2.2.2.1
@[simp] theorem State.store_bootRom (s : State) (a : Word) (v : Byte) : (s.store a v).bus.bootRom = s.bus.bootRom :=
  (s.store_frame a v).2.2.2.2.2.2.1
@[simp] theorem State.store_cartRom (s : State) (a : Word) (v : Byte) : (s.store a v).bus.cartRom = s.bus.cartRom :=
  (s.store_frame a v).2.2.2.2.2.2.2.1
@[simp] theorem State.store_cartRomLen (s : State) (a : Word) (v : Byte) : (s.store a v).bus.cartRomLen = s.bus.cartRomLen :=
  (s.store_frame a v).2.2.2.2.2.2.2.2.1

/-- A store never sets the boot overlay (20_memory.md R51). -/
theorem State.store_bootOverlay (s : State) (a : Word) (v : Byte) (h : (s.store a v).bus.bootOverlay = true) : s.bus.bootOverlay = true :=
  (s.store_frame a v).2.2.2.2.2.2.2.2.2 h

/-- A store changes IF only at 0xFF0F (60_exceptions.md R203). -/
theorem State.store_ifl (s : State) (a : Word) (v : Byte) (h : a ≠ 0xFF0F) : (s.store a v).irq.ifl = s.irq.ifl := by
  rcases s.store_cases a v with ⟨_, e⟩ | ⟨k, _, e | e⟩ | ⟨_, _, e | e⟩ | ⟨_, _, e⟩ | ⟨h1, h2, e⟩ | ⟨_, e⟩
  · rw [e, (s.cartStore_frame a v).2.2.1]
  · rw [e]; rfl
  · rw [e]
  · rw [e]; rfl
  · rw [e]
  · rw [e]
  · rw [e, (s.ioWrite_frame v (ioReg (a.toNat - 0xFF00))).2.2.2.2.2.2.2.2.2.2.2.2.2.2]
    intro hc
    apply h
    have t : ∀ o < 128, ioReg o = .ifl → o = 0x0F := by decide
    have := t _ (by omega) hc
    apply BitVec.eq_of_toNat_eq
    change a.toNat = 0xFF0F
    omega
  · rw [e]

/-- A store to an address that has a byte of the block's RAM writes that byte or, under the access lock, nothing. -/
theorem State.store_of_ramKey {s : State} {a : Word} {k : Nat} (v : Byte) (h : ramKey a = some k) :
    s.store a v = s.setRamByte k v ∨ s.store a v = s := by
  rcases s.store_cases a v with ⟨h1, _⟩ | ⟨k', h', e⟩ | ⟨h1, h2, _⟩ | ⟨h1, h2, _⟩ | ⟨h1, h2, _⟩ | ⟨h1, _⟩
  · rw [ramKey_eq, if_neg (by omega), if_neg (by omega)] at h; simp at h
  · rw [h] at h'; cases h'; exact e
  all_goals (rw [ramKey_eq, if_neg (by omega), if_neg (by omega)] at h; simp at h)

/-- With no lock, the byte is written. -/
theorem State.store_unlocked {s : State} {a : Word} {k : Nat} (v : Byte) (h : ramKey a = some k) (hv : s.vramLocked = false)
    (ho : s.oamLocked = false) : s.store a v = s.setRamByte k v := by
  rw [ramKey_eq] at h
  split at h
  · next hr =>
    cases h
    rcases hr with hr | hr | hr | hr
    · rw [State.store_vram v hr.1 hr.2, hv]; rfl
    · rw [State.store_wram v hr.1 hr.2]
    · rw [State.store_oam v hr.1 hr.2, ho]; rfl
    · rw [State.store_hram v hr.1 hr.2]
  · split at h
    · next hr => rw [State.store_echo v hr.1 hr.2, Option.some.inj h]
    · cases h

/-- What an address with a byte of the block's RAM loads, with no lock. -/
theorem State.loadVal_unlocked {s : State} {a : Word} {k : Nat} (h : ramKey a = some k) (hv : s.vramLocked = false)
    (ho : s.oamLocked = false) : s.loadVal a = s.ramByte k := by
  rw [ramKey_eq] at h
  unfold State.loadVal
  split at h
  · next hr =>
    cases h
    rcases hr with hr | hr | hr | hr
    · rw [busDecode_vram _ hr.1 hr.2]
      simp only [hv, State.defaultRead, Bool.false_eq_true, if_false]
      rw [show 0x8000 + (a.toNat - 0x8000) = a.toNat by omega]
    · by_cases h1 : a.toNat ≤ 0xCFFF
      · rw [busDecode_wram0 _ hr.1 h1]; simp only [State.defaultRead]; rw [show 0xC000 + (a.toNat - 0xC000) = a.toNat by omega]
      · rw [busDecode_wram1 _ (by omega) hr.2]; simp only [State.defaultRead]
        rw [show 0xD000 + (a.toNat - 0xD000) = a.toNat by omega]
    · rw [busDecode_oam _ hr.1 hr.2]
      simp only [ho, State.defaultRead, Bool.false_eq_true, if_false]
      rw [show 0xFE00 + (a.toNat - 0xFE00) = a.toNat by omega]
    · rw [busDecode_hram _ hr.1 hr.2]; simp only [State.defaultRead]; rw [show 0xFF80 + (a.toNat - 0xFF80) = a.toNat by omega]
  · split at h
    · next hr =>
      rw [← Option.some.inj h]
      by_cases h1 : a.toNat ≤ 0xEFFF
      · rw [busDecode_echo0 _ hr.1 h1]; simp only [State.defaultRead]
        rw [show 0xC000 + (a.toNat - 0xE000) = a.toNat - 0x2000 by omega]
      · rw [busDecode_echo1 _ (by omega) hr.2]; simp only [State.defaultRead]
        rw [show 0xD000 + (a.toNat - 0xF000) = a.toNat - 0x2000 by omega]
    · cases h

/-- A store keeps the byte stores in canonical form. -/
theorem MemInv.store {s : State} (h : MemInv s) (a : Word) (v : Byte) : MemInv (s.store a v) := by
  rcases s.store_cases a v with ⟨_, e⟩ | ⟨k, _, e | e⟩ | ⟨_, _, e | e⟩ | ⟨_, _, e⟩ | ⟨h1, h2, e⟩ | ⟨_, e⟩
  · rw [e]; unfold MemInv; rw [(s.cartStore_frame a v).2.2.2.2.2.2.2.1]; exact h
  · rw [e]; exact h.setRamByte k v
  · rw [e]; exact h
  · rw [e]; exact h.setCartRamByte _ v
  · rw [e]; exact h
  · rw [e]; exact h
  · have f := s.ioWrite_frame v (ioReg (a.toNat - 0xFF00)); rw [e]; unfold MemInv; simp only [f]; exact h
  · rw [e]; exact h

/-- A byte of RAM that does not lie behind the address of a store reads as before. -/
theorem State.ramByte_store {s : State} (h : MemInv s) {a : Word} {k : Nat} (v : Byte) (hk : ramKey a ≠ some k) :
    (s.store a v).ramByte k = s.ramByte k := by
  rcases s.store_cases a v with ⟨_, e⟩ | ⟨k', h', e | e⟩ | ⟨_, _, e | e⟩ | ⟨_, _, e⟩ | ⟨h1, h2, e⟩ | ⟨_, e⟩
  · rw [e]; unfold State.ramByte; rw [(s.cartStore_frame a v).2.2.2.2.2.2.2.1]
  · rw [e, State.ramByte_setRamByte h.1, if_neg]; intro c; rw [h', c] at hk; exact hk rfl
  · rw [e]
  · rw [e]; rfl
  · rw [e]
  · rw [e]
  · rw [e]; unfold State.ramByte; rw [(s.ioWrite_frame v (ioReg (a.toNat - 0xFF00))).2.2.2.2.2.2.2.2.1]
  · rw [e]; rfl

/-! ### Stores and loads after an update of the registers, the control state or the outputs -/

theorem State.cartStore_with (s : State) (r : Regs) (c : Cpu) (o : Outputs) (a : Word) (v : Byte) :
    State.cartStore { s with regs := r, cpu := c, out := o } a v = { s.cartStore a v with regs := r, cpu := c, out := o } := by
  unfold State.cartStore; dsimp only; split <;> first | rfl | (split <;> rfl)

theorem State.ioWrite_with (s : State) (r : Regs) (c : Cpu) (o : Outputs) (v : Byte) (x : IoReg) :
    State.ioWrite { s with regs := r, cpu := c, out := o } v x = { s.ioWrite v x with regs := r, cpu := c, out := o } := by
  cases x <;> first | rfl | (simp only [State.ioWrite]; split <;> rfl)

/-- A store does not depend on the registers, the control state and the outputs. -/
theorem State.store_with (s : State) (r : Regs) (c : Cpu) (o : Outputs) (a : Word) (v : Byte) :
    State.store { s with regs := r, cpu := c, out := o } a v = { s.store a v with regs := r, cpu := c, out := o } := by
  unfold State.store
  dsimp only
  split
  · exact s.cartStore_with r c o a v
  · exact s.cartStore_with r c o a v
  · exact s.cartStore_with r c o a v
  · show (if s.vramLocked then _ else _) = _; split <;> rfl
  · show (if s.cartRamOn then _ else _) = _; split <;> rfl
  · rfl
  · rfl
  · show (if s.oamLocked then _ else _) = _; split <;> rfl
  · rfl
  · exact s.ioWrite_with r c o v _
  · rfl
  · rfl

/-- A load does not depend on the registers, the control state and the outputs. -/
theorem State.loadVal_with (s : State) (r : Regs) (c : Cpu) (o : Outputs) (a : Word) :
    State.loadVal { s with regs := r, cpu := c, out := o } a = s.loadVal a := rfl

theorem State.afterLoad_with (s : State) (r : Regs) (c : Cpu) (o : Outputs) (a : Word) :
    State.afterLoad { s with regs := r, cpu := c, out := o } a = { s.afterLoad a with regs := r, cpu := c, out := o } := by
  unfold State.afterLoad; split <;> rfl

end Sys2Proof.Machine
end

