-- ==== Sys2Proof/Laws/Cart.lean ====
section
/-! SUPPORT. The laws of the cartridge controller: what a store to a ROM address does under each controller, and that a controller record written
from functions answers and stores as the functions say. -/

namespace Sys2Proof.Machine

/-- A choice by table gives the chosen expression. -/
theorem CartExpr.table_eval (x : CartExpr) (g : Nat → CartExpr) {n st : Nat} {a : Word} {v : Byte} (h : x.eval st a v ≤ n) :
    (CartExpr.table x g n).eval st a v = (g (x.eval st a v)).eval st a v := by
  induction n with
  | zero => rw [Nat.le_zero.mp h]; rfl
  | succ n ih =>
    show (if x.eval st a v < n + 1 then (CartExpr.table x g n).eval st a v else (g (n + 1)).eval st a v) = _
    by_cases hx : x.eval st a v < n + 1
    · rw [if_pos hx, ih (by omega)]
    · rw [if_neg hx, show x.eval st a v = n + 1 by omega]

/-- A controller record written from functions gives their answers in each of its states. -/
theorem CartRecord.ofFunctions_answers {n st : Nat} (h : st ≤ n) (answers : Nat → CartAnswers) (store : Nat → Word → Byte → Nat) :
    (CartRecord.ofFunctions n answers store).answers st = answers st := by
  have e : ∀ f : CartAnswers → Nat, (CartExpr.table .state (fun st => .const (f (answers st))) n).answer st = f (answers st) := fun _ =>
    CartExpr.table_eval .state _ h
  have b : ∀ b : Bool, (b.toNat != 0) = b := by decide
  simp only [CartRecord.answers, CartRecord.ofFunctions, e (·.romBankA), e (·.romBankB), e (·.sramBank), e (·.ramPresent.toNat), e (·.ramEnabled.toNat), b]

/-- A controller record written from functions stores as they say, at every ROM address and in each of its states. -/
theorem CartRecord.ofFunctions_store {n st : Nat} (h : st ≤ n) (answers : Nat → CartAnswers) (store : Nat → Word → Byte → Nat) {a : Word}
    (ha : a.toNat ≤ 32767) (v : Byte) : (CartRecord.ofFunctions n answers store).store.eval st a v = store st a v := by
  refine (CartExpr.table_eval .state _ h).trans ((CartExpr.table_eval .addr _ ha).trans ?_)
  refine (CartExpr.table_eval .value _ (Nat.le_of_lt_succ v.isLt)).trans ?_
  show store st (BitVec.ofNat 16 a.toNat) (BitVec.ofNat 8 v.toNat) = store st a v
  rw [BitVec.ofNat_toNat, BitVec.ofNat_toNat, BitVec.setWidth_eq, BitVec.setWidth_eq]

end Sys2Proof.Machine
end

