-- ==== Sys2Proof/Laws/Words.lean ====
section
/-! SUPPORT. The two halves of a word. -/

namespace Sys2Proof

theorem toNat_hiByte (w : Word) : (hiByte w).toNat = w.toNat / 256 := by
  have := w.isLt
  simp only [hiByte, BitVec.extractLsb'_toNat, Nat.shiftRight_eq_div_pow]
  omega

theorem toNat_loByte (w : Word) : (loByte w).toNat = w.toNat % 256 := by
  simp [loByte, BitVec.extractLsb'_toNat]

theorem toNat_joinBytes (h l : Byte) : (joinBytes h l).toNat = h.toNat * 256 + l.toNat := by
  have := l.isLt
  simp only [joinBytes, BitVec.toNat_append, Nat.shiftLeft_eq]
  rw [Nat.mul_comm, show (2 : Nat) ^ 8 = 256 from rfl, ← Nat.two_pow_add_eq_or_of_lt (i := 8) this]

/-- The halves of a word make it up (00_scope.md R10). -/
@[simp] theorem joinBytes_parts (w : Word) : joinBytes (hiByte w) (loByte w) = w := by
  apply BitVec.eq_of_toNat_eq
  rw [toNat_joinBytes, toNat_hiByte, toNat_loByte]
  omega

@[simp] theorem hiByte_joinBytes (h l : Byte) : hiByte (joinBytes h l) = h := by
  have := l.isLt
  apply BitVec.eq_of_toNat_eq
  rw [toNat_hiByte, toNat_joinBytes]
  omega

@[simp] theorem loByte_joinBytes (h l : Byte) : loByte (joinBytes h l) = l := by
  have := l.isLt
  apply BitVec.eq_of_toNat_eq
  rw [toNat_loByte, toNat_joinBytes]
  omega

end Sys2Proof
end

