-- ==== Sys2Proof/Laws/Ops.lean ====
section
/-! SUPPORT. What each shared operation can do, said once: the stack, the ALU and shift operations, the conditional transfers, the prefix, and the interrupt
entry. -/

namespace Sys2Proof.Machine

/-! ### Registers and flags after the small updates -/

@[simp] theorem State.afterLoad_flagZ (s : State) (a : Word) : (s.afterLoad a).flagZ = s.flagZ := by simp [State.flagZ]
@[simp] theorem State.afterLoad_flagN (s : State) (a : Word) : (s.afterLoad a).flagN = s.flagN := by simp [State.flagN]
@[simp] theorem State.afterLoad_flagH (s : State) (a : Word) : (s.afterLoad a).flagH = s.flagH := by simp [State.flagH]
@[simp] theorem State.afterLoad_flagC (s : State) (a : Word) : (s.afterLoad a).flagC = s.flagC := by simp [State.flagC]
@[simp] theorem State.store_flagZ (s : State) (a : Word) (v : Byte) : (s.store a v).flagZ = s.flagZ := by simp [State.flagZ]
@[simp] theorem State.store_flagN (s : State) (a : Word) (v : Byte) : (s.store a v).flagN = s.flagN := by simp [State.flagN]
@[simp] theorem State.store_flagH (s : State) (a : Word) (v : Byte) : (s.store a v).flagH = s.flagH := by simp [State.flagH]
@[simp] theorem State.store_flagC (s : State) (a : Word) (v : Byte) : (s.store a v).flagC = s.flagC := by simp [State.flagC]
@[simp] theorem State.cost_flagZ (s : State) (m : Nat) : (s.cost m).flagZ = s.flagZ := rfl
@[simp] theorem State.cost_flagN (s : State) (m : Nat) : (s.cost m).flagN = s.flagN := rfl
@[simp] theorem State.cost_flagH (s : State) (m : Nat) : (s.cost m).flagH = s.flagH := rfl
@[simp] theorem State.cost_flagC (s : State) (m : Nat) : (s.cost m).flagC = s.flagC := rfl
@[simp] theorem State.setPc_flagZ (s : State) (v : Word) : (s.setPc v).flagZ = s.flagZ := rfl
@[simp] theorem State.setPc_flagN (s : State) (v : Word) : (s.setPc v).flagN = s.flagN := rfl
@[simp] theorem State.setPc_flagH (s : State) (v : Word) : (s.setPc v).flagH = s.flagH := rfl
@[simp] theorem State.setPc_flagC (s : State) (v : Word) : (s.setPc v).flagC = s.flagC := rfl
@[simp] theorem State.setSp_flagZ (s : State) (v : Word) : (s.setSp v).flagZ = s.flagZ := rfl
@[simp] theorem State.setSp_flagN (s : State) (v : Word) : (s.setSp v).flagN = s.flagN := rfl
@[simp] theorem State.setSp_flagH (s : State) (v : Word) : (s.setSp v).flagH = s.flagH := rfl
@[simp] theorem State.setSp_flagC (s : State) (v : Word) : (s.setSp v).flagC = s.flagC := rfl
@[simp] theorem State.setHl_flagZ (s : State) (v : Word) : (s.setHl v).flagZ = s.flagZ := rfl
@[simp] theorem State.setHl_flagN (s : State) (v : Word) : (s.setHl v).flagN = s.flagN := rfl
@[simp] theorem State.setHl_flagH (s : State) (v : Word) : (s.setHl v).flagH = s.flagH := rfl
@[simp] theorem State.setHl_flagC (s : State) (v : Word) : (s.setHl v).flagC = s.flagC := rfl
@[simp] theorem State.setReg8_f (s : State) (r : Reg8) (v : Byte) : (s.setReg8 r v).regs.f = s.regs.f := by cases r <;> rfl
@[simp] theorem State.setReg8_flagZ (s : State) (r : Reg8) (v : Byte) : (s.setReg8 r v).flagZ = s.flagZ := by simp [State.flagZ]
@[simp] theorem State.setReg8_flagN (s : State) (r : Reg8) (v : Byte) : (s.setReg8 r v).flagN = s.flagN := by simp [State.flagN]
@[simp] theorem State.setReg8_flagH (s : State) (r : Reg8) (v : Byte) : (s.setReg8 r v).flagH = s.flagH := by simp [State.flagH]
@[simp] theorem State.setReg8_flagC (s : State) (r : Reg8) (v : Byte) : (s.setReg8 r v).flagC = s.flagC := by simp [State.flagC]
@[simp] theorem State.setPair_f (s : State) (p : Pair) (v : Word) : (s.setPair p v).regs.f = s.regs.f := by cases p <;> rfl
@[simp] theorem State.setPair_flagZ (s : State) (p : Pair) (v : Word) : (s.setPair p v).flagZ = s.flagZ := by simp [State.flagZ]
@[simp] theorem State.setPair_flagN (s : State) (p : Pair) (v : Word) : (s.setPair p v).flagN = s.flagN := by simp [State.flagN]
@[simp] theorem State.setPair_flagH (s : State) (p : Pair) (v : Word) : (s.setPair p v).flagH = s.flagH := by simp [State.flagH]
@[simp] theorem State.setPair_flagC (s : State) (p : Pair) (v : Word) : (s.setPair p v).flagC = s.flagC := by simp [State.flagC]
@[simp] theorem State.reg8_cost (s : State) (m : Nat) (r : Reg8) : (s.cost m).reg8 r = s.reg8 r := by cases r <;> rfl
@[simp] theorem State.reg8_store (s : State) (a : Word) (v : Byte) (r : Reg8) : (s.store a v).reg8 r = s.reg8 r := by
  cases r <;> simp [State.reg8]
@[simp] theorem State.reg8_afterLoad (s : State) (a : Word) (r : Reg8) : (s.afterLoad a).reg8 r = s.reg8 r := by
  cases r <;> simp [State.reg8]

/-- The low four bits of F are 0 after every computation of flags (10_state.md R22). -/
@[simp] theorem State.setFlags_low (s : State) (z n h c : Bool) : (s.setFlags z n h c).regs.f &&& 0x0F#8 = 0#8 :=
  (packFlags_bits z n h c).2.2.2.2

/-! ### Fetch and stack (00_scope.md R15) -/

/-- A fetch moves PC past the byte and may take a draw of the environment. -/
theorem State.afterFetch_regs (s : State) : s.afterFetch.regs = { s.regs with pc := s.regs.pc + 1 } := by
  simp [State.afterFetch, State.setPc]

@[simp] theorem State.afterFetch_cpu (s : State) : s.afterFetch.cpu = s.cpu := by simp [State.afterFetch]
@[simp] theorem State.afterFetch_irq (s : State) : s.afterFetch.irq = s.irq := by simp [State.afterFetch]
@[simp] theorem State.afterFetch_timer (s : State) : s.afterFetch.timer = s.timer := by simp [State.afterFetch]
@[simp] theorem State.afterFetch_lcd (s : State) : s.afterFetch.lcd = s.lcd := by simp [State.afterFetch]
@[simp] theorem State.afterFetch_ppu (s : State) : s.afterFetch.ppu = s.ppu := by simp [State.afterFetch]
@[simp] theorem State.afterFetch_dma (s : State) : s.afterFetch.dma = s.dma := by simp [State.afterFetch]
@[simp] theorem State.afterFetch_bus (s : State) : s.afterFetch.bus = s.bus := by simp [State.afterFetch]
@[simp] theorem State.afterFetch_cart (s : State) : s.afterFetch.cart = s.cart := by simp [State.afterFetch]
@[simp] theorem State.afterFetch_source (s : State) : s.afterFetch.env.source = s.env.source := by simp [State.afterFetch]
@[simp] theorem State.afterFetch_params (s : State) : s.afterFetch.params = s.params := by simp [State.afterFetch]
@[simp] theorem State.afterFetch_out (s : State) : s.afterFetch.out = s.out := by simp [State.afterFetch]
@[simp] theorem State.afterFetch_ticks (s : State) : s.afterFetch.ticks = s.ticks := by simp [State.afterFetch]

/-- A fetch does not depend on the control state and the outputs. -/
theorem State.afterFetch_with (s : State) (c : Cpu) (o : Outputs) :
    State.afterFetch { s with cpu := c, out := o } = { s.afterFetch with cpu := c, out := o } := by
  have e := s.afterLoad_with s.regs c o s.regs.pc
  unfold State.afterFetch State.setPc
  dsimp only
  rw [e]
  simp

/-- `push16` is two stores, the high byte first, with SP two lower. -/
theorem State.push16_eq (s : State) (v : Word) :
    s.push16 v =
      State.setSp ((s.store (s.regs.sp - 1) (hiByte v)).store (s.regs.sp - 2) (loByte v)) (s.regs.sp - 2) := by
  have w1 := s.store_with { s.regs with sp := s.regs.sp - 1 } s.cpu s.out (s.regs.sp - 1) (hiByte v)
  have w2 := (s.store (s.regs.sp - 1) (hiByte v)).store_with { s.regs with sp := s.regs.sp - 2 } s.cpu s.out (s.regs.sp - 2) (loByte v)
  unfold State.push16 State.setSp
  dsimp only
  rw [w1]
  dsimp only
  rw [w2]
  simp

@[simp] theorem State.push16_regs (s : State) (v : Word) : (s.push16 v).regs = { s.regs with sp := s.regs.sp - 2 } := by
  rw [State.push16_eq]; simp [State.setSp]
@[simp] theorem State.push16_cpu (s : State) (v : Word) : (s.push16 v).cpu = s.cpu := by rw [State.push16_eq]; simp
@[simp] theorem State.push16_params (s : State) (v : Word) : (s.push16 v).params = s.params := by rw [State.push16_eq]; simp
@[simp] theorem State.push16_out (s : State) (v : Word) : (s.push16 v).out = s.out := by rw [State.push16_eq]; simp
@[simp] theorem State.push16_ticks (s : State) (v : Word) : (s.push16 v).ticks = s.ticks := by rw [State.push16_eq]; simp
@[simp] theorem State.push16_source (s : State) (v : Word) : (s.push16 v).env.source = s.env.source := by
  rw [State.push16_eq]; simp

theorem MemInv.push16 {s : State} (h : MemInv s) (v : Word) : MemInv (s.push16 v) := by
  rw [State.push16_eq]; exact (h.store _ _).store _ _

/-- `pop16` changes SP and may take draws of the environment. -/
@[simp] theorem State.afterPop_regs (s : State) : s.afterPop.regs = { s.regs with sp := s.regs.sp + 2 } := by
  simp [State.afterPop, State.setSp]
@[simp] theorem State.afterPop_cpu (s : State) : s.afterPop.cpu = s.cpu := by simp [State.afterPop]
@[simp] theorem State.afterPop_irq (s : State) : s.afterPop.irq = s.irq := by simp [State.afterPop]
@[simp] theorem State.afterPop_timer (s : State) : s.afterPop.timer = s.timer := by simp [State.afterPop]
@[simp] theorem State.afterPop_lcd (s : State) : s.afterPop.lcd = s.lcd := by simp [State.afterPop]
@[simp] theorem State.afterPop_ppu (s : State) : s.afterPop.ppu = s.ppu := by simp [State.afterPop]
@[simp] theorem State.afterPop_dma (s : State) : s.afterPop.dma = s.dma := by simp [State.afterPop]
@[simp] theorem State.afterPop_bus (s : State) : s.afterPop.bus = s.bus := by simp [State.afterPop]
@[simp] theorem State.afterPop_cart (s : State) : s.afterPop.cart = s.cart := by simp [State.afterPop]
@[simp] theorem State.afterPop_source (s : State) : s.afterPop.env.source = s.env.source := by simp [State.afterPop]
@[simp] theorem State.afterPop_params (s : State) : s.afterPop.params = s.params := by simp [State.afterPop]
@[simp] theorem State.afterPop_out (s : State) : s.afterPop.out = s.out := by simp [State.afterPop]
@[simp] theorem State.afterPop_ticks (s : State) : s.afterPop.ticks = s.ticks := by simp [State.afterPop]

/-! ### ALU, shifts -/

/-- Every ALU operation writes A (CP writes back A itself) and the four flags, nothing else (41_alu8.md R112). -/
theorem State.alu8_eq (s : State) (op : AluOp) (b : Byte) :
    ∃ v z n h c, s.alu8 op b = (s.setReg8 .a v).setFlags z n h c ∧ (op = .cp → v = s.regs.a) := by
  by_cases hc : op = .cp
  · exact ⟨s.regs.a, _, _, _, _, (by unfold State.alu8; dsimp only; rw [if_pos hc]; rfl), fun _ => rfl⟩
  · exact ⟨_, _, _, _, _, (by unfold State.alu8; dsimp only; rw [if_neg hc]), fun h => absurd h hc⟩

/-! ### Conditional transfers (44_control.md) -/

/-- A conditional jump goes to its target or falls through. -/
theorem jumpIf_cases {cc : Cond} {w : Word} {m n : Nat} {s t : State} (h : jumpIf cc w m n s = .next t) :
    (s.cond cc = true ∧ t = (s.setPc w).cost m) ∨ (s.cond cc = false ∧ t = s.cost n) := by
  cases hc : s.cond cc <;> rw [jumpIf, hc] at h <;> cases h
  · exact .inr ⟨rfl, rfl⟩
  · exact .inl ⟨rfl, rfl⟩

/-- A conditional call calls or falls through. -/
theorem callIf_cases {cc : Cond} {w : Word} {s t : State} (h : callIf cc w s = .next t) :
    (s.cond cc = true ∧ t = ((s.push16 s.regs.pc).setPc w).cost 6) ∨ (s.cond cc = false ∧ t = s.cost 3) := by
  cases hc : s.cond cc <;> rw [callIf, hc] at h <;> cases h
  · exact .inr ⟨rfl, rfl⟩
  · exact .inl ⟨rfl, rfl⟩

/-- A conditional return returns or falls through. -/
theorem returnIf_cases {cc : Cond} {s t : State} (h : returnIf cc s = .next t) :
    (s.cond cc = true ∧ t = (s.afterPop.setPc s.popVal).cost 5) ∨ (s.cond cc = false ∧ t = s.cost 2) := by
  cases hc : s.cond cc <;> rw [returnIf, hc] at h <;> cases h
  · exact .inr ⟨rfl, rfl⟩
  · exact .inl ⟨rfl, rfl⟩

/-- HALT sets the halt bug or halts (45_system.md R195). -/
theorem execHalt_cases {s t : State} (h : execHalt s = .next t) :
    (s.cpu.ime = false ∧ s.pending ≠ 0 ∧ t = State.cost { s with cpu.haltBug := true } 1)
      ∨ (¬(s.cpu.ime = false ∧ s.pending ≠ 0) ∧ t = State.cost { s with cpu.halted := true } 1) := by
  by_cases hc : s.cpu.ime = false ∧ s.pending ≠ 0
  · rw [execHalt, if_pos hc] at h; cases h; exact .inl ⟨hc.1, hc.2, rfl⟩
  · rw [execHalt, if_neg hc] at h; cases h; exact .inr ⟨hc, rfl⟩

/-! ### The prefix (30_encoding.md R75) -/

/-- The CB instruction that a second byte runs is the one that it decodes to. -/
theorem runCb_eq (b : Byte) (s : State) : runCb b s = exec (decodeCb b) s := by
  unfold runCb decodeCb
  generalize fieldX b = x
  generalize Reg8.ofField (fieldZ b) = r
  generalize ShiftOp.ofField (fieldY b) = op
  generalize bitField b = k
  match x, r with
  | 0, some r => cases op <;> rfl
  | 0, none => cases op <;> rfl
  | 1, some r => rfl
  | 1, none => rfl
  | 2, some r => rfl
  | 2, none => rfl
  | _ + 3, some r => rfl
  | _ + 3, none => rfl

/-- No second byte is a prefix again. -/
theorem decodeCb_ne_prefixCb (b : Byte) : decodeCb b ≠ .prefixCb := by
  revert b; decide +kernel

/-! ### The interrupt entry (60_exceptions.md R205) -/

/-- The entry pushes the return address with the control state cleared, and chooses the source after the high byte. -/
theorem interruptEntry_eq (s : State) :
    interruptEntry s =
      ((match lowestIrq s.entryHigh.pending with
        | none => .intCancelled
        | some k => .interrupt k),
       s.entryCleared.push16 s.entryReturn) := by
  have e : (s.entryHigh.setSp (s.regs.sp - 2)).store (s.regs.sp - 2) (loByte s.entryReturn) = s.entryCleared.push16 s.entryReturn := rfl
  unfold interruptEntry
  dsimp only
  rw [e]
  cases lowestIrq s.entryHigh.pending <;> rfl

end Sys2Proof.Machine
end

