-- ==== Sys2Proof/Laws/Ppu.lean ====
section
/-! SUPPORT. The pixel pipeline: what each part of a dot keeps of the position, and that each part keeps the ranges of the pipeline's state. -/

namespace Sys2Proof.Machine

/-! ### The position: what only `advance` and a power toggle change -/

/-- The parts of the pipeline that no part of a dot before `advance` changes. -/
structure Ppu.SamePosition (p q : Ppu) : Prop where
  on : q.on = p.on
  line : q.line = p.line
  dot : q.dot = p.dot
  statLine : q.statLine = p.statLine
  suppress : q.suppress = p.suppress
  winLine : q.winLine = p.winLine

theorem Ppu.SamePosition.refl (p : Ppu) : p.SamePosition p := ⟨rfl, rfl, rfl, rfl, rfl, rfl⟩

theorem Ppu.SamePosition.trans {p q r : Ppu} (h : p.SamePosition q) (g : q.SamePosition r) : p.SamePosition r :=
  ⟨g.on.trans h.on, g.line.trans h.line, g.dot.trans h.dot, g.statLine.trans h.statLine, g.suppress.trans h.suppress, g.winLine.trans h.winLine⟩

theorem Ppu.lineStart_position (p : Ppu) (r : Lcd) : p.SamePosition (p.lineStart r) := by
  unfold Ppu.lineStart
  by_cases h0 : p.line = 0 <;> by_cases h1 : p.line < 144 <;> by_cases h2 : p.line = 144 <;> constructor <;> simp [h0, h1, h2]

theorem Ppu.oamScanEntry_position (p : Ppu) (r : Lcd) (peek : Word → Byte) (i : Nat) : p.SamePosition (p.oamScanEntry r peek i) := by
  unfold Ppu.oamScanEntry; dsimp only; split <;> constructor <;> rfl

theorem Ppu.bgStep_position (p : Ppu) (r : Lcd) (peek : Word → Byte) : p.SamePosition (p.bgStep r peek) := by
  unfold Ppu.bgStep; split <;> (try split) <;> constructor <;> rfl

theorem Ppu.objStep_position (p : Ppu) (r : Lcd) (peek : Word → Byte) : p.SamePosition (p.objStep r peek) := by
  unfold Ppu.objStep
  dsimp only
  split <;> split <;> constructor <;> rfl

theorem Ppu.popPixel_position (p : Ppu) (r : Lcd) : p.SamePosition (p.popPixel r).1 := by
  unfold Ppu.popPixel
  split
  · exact .refl p
  · split <;> constructor <;> rfl

theorem Ppu.startWindow_position (p : Ppu) (r : Lcd) : p.SamePosition ((p.latchWx r).startWindow r) := by
  unfold Ppu.startWindow Ppu.latchWx; split <;> split <;> constructor <;> rfl

theorem Ppu.drawInit_position (p : Ppu) (r : Lcd) (d : Nat) : p.SamePosition (p.drawInit r d) := ⟨rfl, rfl, rfl, rfl, rfl, rfl⟩

theorem Ppu.drawDot_position (p : Ppu) (r : Lcd) (peek : Word → Byte) : p.SamePosition (p.drawDot r peek).1 := by
  unfold Ppu.drawDot
  split
  · exact ⟨rfl, rfl, rfl, rfl, rfl, rfl⟩
  · split
    · exact p.objStep_position r peek
    · have h := p.startWindow_position r
      dsimp only
      split
      · exact h.trans ⟨(Ppu.objStep_position _ r peek).on, (Ppu.objStep_position _ r peek).line, (Ppu.objStep_position _ r peek).dot,
          (Ppu.objStep_position _ r peek).statLine, (Ppu.objStep_position _ r peek).suppress, (Ppu.objStep_position _ r peek).winLine⟩
      · have h1 := h.trans (Ppu.bgStep_position _ r peek)
        split
        · exact h1
        · exact h1.trans (Ppu.popPixel_position _ r)

/-! ### The parts of a dot on the whole state -/

/-- A dot before `advance` changes only the pipeline, IF and the output image, and of the pipeline not the position. -/
structure SameButPixels (s t : State) : Prop where
  regs : t.regs = s.regs
  cpu : t.cpu = s.cpu
  ie : t.irq.ie = s.irq.ie
  timer : t.timer = s.timer
  lcd : t.lcd = s.lcd
  dma : t.dma = s.dma
  bus : t.bus = s.bus
  cart : t.cart = s.cart
  env : t.env = s.env
  params : t.params = s.params
  trace : t.out.trace = s.out.trace
  ticks : t.ticks = s.ticks

theorem SameButPixels.refl (s : State) : SameButPixels s s := ⟨rfl, rfl, rfl, rfl, rfl, rfl, rfl, rfl, rfl, rfl, rfl, rfl⟩

theorem SameButPixels.trans {s t u : State} (h : SameButPixels s t) (g : SameButPixels t u) : SameButPixels s u :=
  ⟨g.regs.trans h.regs, g.cpu.trans h.cpu, g.ie.trans h.ie, g.timer.trans h.timer, g.lcd.trans h.lcd, g.dma.trans h.dma, g.bus.trans h.bus,
    g.cart.trans h.cart, g.env.trans h.env, g.params.trans h.params, g.trace.trans h.trace, g.ticks.trans h.ticks⟩

theorem SameButPixels.setPpu (s : State) (p : Ppu) : SameButPixels s { s with ppu := p } :=
  ⟨rfl, rfl, rfl, rfl, rfl, rfl, rfl, rfl, rfl, rfl, rfl, rfl⟩

theorem SameButPixels.requestIrq (s : State) (k : IrqSource) : SameButPixels s (s.requestIrq k) :=
  ⟨rfl, rfl, rfl, rfl, rfl, rfl, rfl, rfl, rfl, rfl, rfl, rfl⟩

theorem SameButPixels.consumeImage (s : State) (px : Option Pixel) : SameButPixels s (s.consumeImage px) := by
  cases px <;> exact ⟨rfl, rfl, rfl, rfl, rfl, rfl, rfl, rfl, rfl, rfl, rfl, rfl⟩

@[simp] theorem State.consumeImage_ppu (s : State) (px : Option Pixel) : (s.consumeImage px).ppu = s.ppu := by cases px <;> rfl
@[simp] theorem State.consumeImage_irq (s : State) (px : Option Pixel) : (s.consumeImage px).irq = s.irq := by cases px <;> rfl

theorem lineStart_frame (s : State) :
    SameButPixels s (lineStart s) ∧ (lineStart s).ppu = s.ppu.lineStart s.lcd ∧ (lineStart s).out = s.out
      ∧ (lineStart s).irq.ifl = (if s.ppu.line = 144 then s.irq.ifl ||| 1#5 else s.irq.ifl) := by
  unfold lineStart
  dsimp only
  split
  · exact ⟨(SameButPixels.setPpu s _).trans (.requestIrq _ _), rfl, rfl, rfl⟩
  · exact ⟨.setPpu s _, rfl, rfl, rfl⟩

theorem drawDot_frame (s : State) :
    SameButPixels s (drawDot s) ∧ (drawDot s).ppu = (s.ppu.drawDot s.lcd s.peek).1 ∧ (drawDot s).irq = s.irq
      ∧ (drawDot s).out.image = (match (s.ppu.drawDot s.lcd s.peek).2 with
          | none => s.out.image
          | some px => px :: s.out.image) := by
  unfold drawDot
  dsimp only
  refine ⟨(SameButPixels.setPpu s _).trans (.consumeImage _ _), by simp, by simp, ?_⟩
  cases (s.ppu.drawDot s.lcd s.peek).2 <;> rfl

/-- What the dot does before `advance`: the position stays, VBlank is requested at dot 0 of line 144. -/
theorem dotWork_frame (s : State) :
    SameButPixels s (dotWork s) ∧ s.ppu.SamePosition (dotWork s).ppu
      ∧ (dotWork s).irq.ifl = (if s.ppu.line = 144 ∧ s.ppu.dot = 0 then s.irq.ifl ||| 1#5 else s.irq.ifl) := by
  unfold dotWork
  have h0 : SameButPixels s (if s.ppu.dot = 0 then lineStart s else s)
      ∧ s.ppu.SamePosition (if s.ppu.dot = 0 then lineStart s else s).ppu
      ∧ (if s.ppu.dot = 0 then lineStart s else s).irq.ifl = (if s.ppu.line = 144 ∧ s.ppu.dot = 0 then s.irq.ifl ||| 1#5 else s.irq.ifl) := by
    have f := lineStart_frame s
    by_cases h : s.ppu.dot = 0
    · rw [if_pos h]
      refine ⟨f.1, by rw [f.2.1]; exact s.ppu.lineStart_position s.lcd, ?_⟩
      rw [f.2.2.2]
      by_cases h2 : s.ppu.line = 144
      · rw [if_pos h2, if_pos ⟨h2, h⟩]
      · rw [if_neg h2, if_neg fun c => h2 c.1]
    · rw [if_neg h, if_neg fun c => h c.2]
      exact ⟨.refl s, .refl _, rfl⟩
  generalize (if s.ppu.dot = 0 then lineStart s else s) = s1 at h0
  obtain ⟨g1, g2, g3⟩ := h0
  dsimp only
  split
  · split
    · split
      · exact ⟨g1.trans (.setPpu s1 _), g2.trans (Ppu.oamScanEntry_position _ _ _ _), g3⟩
      · exact ⟨g1, g2, g3⟩
    · split
      · have f := drawDot_frame { s1 with ppu := { s1.ppu.drawInit s1.lcd s1.params.drawStartDelay.val with mode := .draw } }
        refine ⟨g1.trans ((SameButPixels.setPpu s1 _).trans f.1), ?_, by rw [f.2.2.1]; exact g3⟩
        rw [f.2.1]
        have g := Ppu.drawDot_position { s1.ppu.drawInit s1.lcd s1.params.drawStartDelay.val with mode := .draw } s1.lcd
          (State.peek { s1 with ppu := { s1.ppu.drawInit s1.lcd s1.params.drawStartDelay.val with mode := .draw } })
        exact g2.trans ⟨g.on, g.line, g.dot, g.statLine, g.suppress, g.winLine⟩
      · split
        · have f := drawDot_frame s1
          exact ⟨g1.trans f.1, by rw [f.2.1]; exact g2.trans (Ppu.drawDot_position _ _ _), by rw [f.2.2.1]; exact g3⟩
        · exact ⟨g1, g2, g3⟩
  · exact ⟨g1, g2, g3⟩

/-- The end of the dot: the next position, modulo the frame (R228). -/
theorem Ppu.advance_position {p : Ppu} (h1 : p.line < 154) (h2 : p.dot < 456) :
    p.advance.on = p.on ∧ p.advance.mode = p.mode ∧ p.advance.statLine = p.statLine ∧ p.advance.line < 154 ∧ p.advance.dot < 456
      ∧ p.advance.line * 456 + p.advance.dot = (p.line * 456 + p.dot + 1) % 70224
      ∧ p.advance.lastLine = p.line ∧ p.advance.lastDot = p.dot := by
  unfold Ppu.advance Ppu.lastLine Ppu.lastDot
  split
  · dsimp only
    split
    · refine ⟨rfl, rfl, rfl, by simp, by simp, ?_, ?_, ?_⟩ <;> simp <;> omega
    · refine ⟨rfl, rfl, rfl, ?_, by simp, ?_, ?_, ?_⟩ <;> simp <;> omega
  · refine ⟨rfl, rfl, rfl, h1, ?_, ?_, ?_, ?_⟩ <;> simp <;> omega

/-- The end of the dot keeps the column, and the suppressed frames but for one at the end of a frame. -/
theorem Ppu.advance_column (p : Ppu) : p.advance.lx = p.lx ∧ (p.advance.suppress = p.suppress ∨ p.advance.suppress = p.suppress - 1) := by
  unfold Ppu.advance
  split
  · dsimp only
    split
    · exact ⟨rfl, .inr rfl⟩
    · exact ⟨rfl, .inl rfl⟩
  · exact ⟨rfl, .inl rfl⟩

theorem statUpdate_frame (s : State) :
    SameButPixels s (statUpdate s) ∧ (statUpdate s).out = s.out ∧ (statUpdate s).ppu = { s.ppu with statLine := statCondition s.ppu s.lcd }
      ∧ (statUpdate s).irq.ifl = (if statCondition s.ppu s.lcd && !s.ppu.statLine then s.irq.ifl ||| 2#5 else s.irq.ifl) := by
  unfold statUpdate
  dsimp only
  split
  · exact ⟨(SameButPixels.requestIrq s _).trans (.setPpu _ _), rfl, rfl, rfl⟩
  · exact ⟨.setPpu s _, rfl, rfl, rfl⟩

/-- A dot while the LCD is on: what it leaves alone, and its pipeline state in terms of `dotWork` and `advance` (R218). -/
theorem ppuStep_frame (s : State) (hon : s.ppu.on = true) :
    SameButPixels s (ppuStep s) ∧ (ppuStep s).out = (dotWork s).out
      ∧ (ppuStep s).ppu = { (dotWork s).ppu.advance with statLine := statCondition (dotWork s).ppu.advance s.lcd } := by
  have f := dotWork_frame s
  have g := statUpdate_frame { dotWork s with ppu := (dotWork s).ppu.advance }
  unfold ppuStep
  rw [if_pos hon]
  dsimp only
  refine ⟨f.1.trans ((SameButPixels.setPpu _ _).trans g.1), g.2.1, ?_⟩
  rw [g.2.2.1]
  dsimp only
  rw [f.1.lcd]

theorem ppuStep_off (s : State) (h : s.ppu.on = false) : ppuStep s = s := by
  unfold ppuStep; rw [if_neg (by simp [h])]

/-! ### The ranges of the pipeline's state -/

/-- The part of `PpuInv` that every part of a dot keeps; `d` bounds the pixels put out so far while the pipeline draws. -/
structure Ppu.Ranges (p : Ppu) : Prop where
  objs : p.objs.length ≤ 10
  sorted : p.objs.Pairwise fun a b => a.x.toNat ≤ b.x.toNat
  bg : p.bgFifo.length ≤ 8
  obj : p.objFifo.length = 8
  fetch : p.fetch.stage ≤ 5
  ofetch : p.ofetch.stage ≤ 5
  lx : p.lx ≤ 160
  draw : p.mode = .draw → p.lx < 160
  discard : p.discard ≤ 7
  delay : p.delay ≤ 100
  suppress : p.suppress ≤ 2

theorem ppuInv_iff (s : State) :
    PpuInv s ↔ s.ppu.line < 154 ∧ s.ppu.dot < 456 ∧ s.ppu.on = s.lcd.lcdc.getLsbD 7
      ∧ (s.ppu.on = false → s.ppu.line = 0 ∧ s.ppu.dot = 0 ∧ s.ppu.mode = .hblank) ∧ s.ppu.Ranges := by
  constructor
  · rintro ⟨a, b, c, d, e1, e2, e3, e4, e5, e6, e7, e8, e9, e10, e11⟩
    exact ⟨a, b, c, d, ⟨e1, e2, e3, e4, e5, e6, e7, e8, e9, e10, e11⟩⟩
  · rintro ⟨a, b, c, d, e⟩
    exact ⟨a, b, c, d, e.objs, e.sorted, e.bg, e.obj, e.fetch, e.ofetch, e.lx, e.draw, e.discard, e.delay, e.suppress⟩

theorem Ppu.Ranges.lineStart {p : Ppu} (h : p.Ranges) (r : Lcd) : (p.lineStart r).Ranges := by
  unfold Ppu.lineStart
  by_cases h0 : p.line = 0 <;> by_cases h1 : p.line < 144 <;> by_cases h2 : p.line = 144 <;> simp only [h0, h1, h2, if_true, if_false] <;>
    constructor <;> first | exact h.objs | exact h.sorted | exact h.bg | exact h.obj | exact h.fetch | exact h.ofetch | exact h.lx
                          | exact h.draw | exact h.discard | exact h.delay | exact h.suppress | simp

theorem insertObj_length (o : ObjEntry) (l : List ObjEntry) : (insertObj o l).length = l.length + 1 := by
  induction l with
  | nil => rfl
  | cons e es ih => unfold insertObj; split <;> simp [ih]

/-- The insertion splits the list where the entries with an x no greater end (R220). -/
theorem insertObj_split (o : ObjEntry) (l : List ObjEntry) (hs : l.Pairwise fun a b => a.x.toNat ≤ b.x.toNat) :
    ∃ before after, l = before ++ after ∧ insertObj o l = before ++ o :: after
      ∧ (∀ e ∈ before, e.x.toNat ≤ o.x.toNat) ∧ (∀ e ∈ after, o.x.toNat < e.x.toNat) := by
  induction l with
  | nil => exact ⟨[], [], rfl, rfl, by simp, by simp⟩
  | cons e es ih =>
    rw [List.pairwise_cons] at hs
    unfold insertObj
    split
    · next hle =>
      obtain ⟨b, a, h1, h2, h3, h4⟩ := ih hs.2
      refine ⟨e :: b, a, by rw [h1]; rfl, by rw [h2]; rfl, ?_, h4⟩
      intro x hx
      rcases List.mem_cons.1 hx with rfl | hx
      · exact hle
      · exact h3 x hx
    · next hlt =>
      refine ⟨[], e :: es, rfl, rfl, by simp, ?_⟩
      intro x hx
      rcases List.mem_cons.1 hx with rfl | hx
      · omega
      · have := hs.1 x hx; omega

/-- The insertion keeps the order (R220). -/
theorem insertObj_sorted (o : ObjEntry) (l : List ObjEntry) (hs : l.Pairwise fun a b => a.x.toNat ≤ b.x.toNat) :
    (insertObj o l).Pairwise fun a b => a.x.toNat ≤ b.x.toNat := by
  obtain ⟨b, a, h1, h2, h3, h4⟩ := insertObj_split o l hs
  subst h1
  rw [h2]
  rw [List.pairwise_append] at hs ⊢
  refine ⟨hs.1, List.pairwise_cons.2 ⟨fun x hx => Nat.le_of_lt (h4 x hx), hs.2.1⟩, fun x hx y hy => ?_⟩
  rcases List.mem_cons.1 hy with rfl | hy
  · exact h3 x hx
  · exact hs.2.2 x hx y hy

theorem Ppu.Ranges.oamScanEntry {p : Ppu} (h : p.Ranges) (r : Lcd) (peek : Word → Byte) (i : Nat) : (p.oamScanEntry r peek i).Ranges := by
  unfold Ppu.oamScanEntry
  dsimp only
  split
  · next hc =>
    exact ⟨by rw [insertObj_length]; omega, insertObj_sorted _ _ h.sorted, h.bg, h.obj, h.fetch, h.ofetch, h.lx, h.draw, h.discard, h.delay,
      h.suppress⟩
  · exact h

theorem Ppu.Ranges.drawInit {p : Ppu} (h : p.Ranges) (r : Lcd) {d : Nat} (hd : d ≤ 100) :
    Ppu.Ranges { p.drawInit r d with mode := .draw } :=
  ⟨h.objs, h.sorted, Nat.zero_le _, rfl, Nat.zero_le _, h.ofetch, Nat.zero_le _, fun _ => by show 0 < 160; omega,
    by show r.scx.toNat % 8 ≤ 7; omega, hd, h.suppress⟩

theorem Ppu.Ranges.bgStep {p : Ppu} (h : p.Ranges) (r : Lcd) (peek : Word → Byte) : (p.bgStep r peek).Ranges := by
  unfold Ppu.bgStep
  split <;> (try split) <;>
    refine ⟨h.objs, h.sorted, ?_, h.obj, ?_, h.ofetch, h.lx, h.draw, h.discard, h.delay, h.suppress⟩ <;>
    first | exact h.bg | exact h.fetch | simp [tileRow]

theorem mergeObjPixel_length (o : ObjEntry) (attr lo hi : Byte) (lx : Nat) (q : List ObjPixel) (j : Nat) :
    (mergeObjPixel o attr lo hi lx q j).length = q.length := by
  unfold mergeObjPixel
  generalize (if attr.getLsbD 5 then j else 7 - j) = b
  dsimp only
  split
  · rw [List.length_set]
  · rfl

theorem foldl_mergeObjPixel_length (o : ObjEntry) (attr lo hi : Byte) (lx : Nat) (js : List Nat) (q : List ObjPixel) :
    (js.foldl (mergeObjPixel o attr lo hi lx) q).length = q.length := by
  induction js generalizing q with
  | nil => rfl
  | cons j js ih => rw [List.foldl_cons, ih, mergeObjPixel_length]

/-- Marking an object done keeps the order. -/
theorem set_done_sorted {l : List ObjEntry} {i : Nat} {o : ObjEntry} (h : l[i]? = some o) (hs : l.Pairwise fun a b => a.x.toNat ≤ b.x.toNat) :
    (l.set i { o with done := true }).Pairwise fun a b => a.x.toNat ≤ b.x.toNat := by
  rw [List.pairwise_iff_getElem] at hs ⊢
  obtain ⟨hi, ho⟩ := List.getElem?_eq_some_iff.1 h
  intro a b ha hb hab
  rw [List.length_set] at ha hb
  have := hs a b ha hb hab
  rw [List.getElem_set, List.getElem_set]
  split <;> split
  · exact Nat.le_refl _
  · next e1 _ => subst e1; rw [ho] at this; exact this
  · next e2 => subst e2; rw [ho] at this; exact this
  · exact this

theorem Ppu.Ranges.objStep {p : Ppu} (h : p.Ranges) (r : Lcd) (peek : Word → Byte) : (p.objStep r peek).Ranges := by
  unfold Ppu.objStep
  dsimp only
  split
  · split
    · exact ⟨h.objs, h.sorted, h.bg, h.obj, h.fetch, h.ofetch, h.lx, h.draw, h.discard, h.delay, h.suppress⟩
    · exact ⟨h.objs, h.sorted, h.bg, h.obj, h.fetch, by show p.ofetch.stage + 1 ≤ 5; omega, h.lx, h.draw, h.discard, h.delay, h.suppress⟩
  · next o ho =>
    split
    · exact ⟨h.objs, h.sorted, h.bg, h.obj, h.fetch, by show 1 ≤ 5; omega, h.lx, h.draw, h.discard, h.delay, h.suppress⟩
    · exact ⟨h.objs, h.sorted, h.bg, h.obj, h.fetch, by show 2 ≤ 5; omega, h.lx, h.draw, h.discard, h.delay, h.suppress⟩
    · exact ⟨h.objs, h.sorted, h.bg, h.obj, h.fetch, by show 3 ≤ 5; omega, h.lx, h.draw, h.discard, h.delay, h.suppress⟩
    · exact ⟨h.objs, h.sorted, h.bg, h.obj, h.fetch, by show 4 ≤ 5; omega, h.lx, h.draw, h.discard, h.delay, h.suppress⟩
    · exact ⟨h.objs, h.sorted, h.bg, h.obj, h.fetch, by show 5 ≤ 5; omega, h.lx, h.draw, h.discard, h.delay, h.suppress⟩
    · exact ⟨by rw [List.length_set]; exact h.objs, set_done_sorted ho h.sorted, h.bg, by rw [foldl_mergeObjPixel_length]; exact h.obj, h.fetch,
        h.ofetch, h.lx, h.draw, h.discard, h.delay, h.suppress⟩

theorem Ppu.Ranges.startWindow {p : Ppu} (h : p.Ranges) (r : Lcd) : ((p.latchWx r).startWindow r).Ranges := by
  have h1 : (p.latchWx r).Ranges := by
    unfold Ppu.latchWx
    split
    · exact ⟨h.objs, h.sorted, h.bg, h.obj, h.fetch, h.ofetch, h.lx, h.draw, h.discard, h.delay, h.suppress⟩
    · exact h
  unfold Ppu.startWindow
  split
  · exact ⟨h1.objs, h1.sorted, Nat.zero_le _, h1.obj, Nat.zero_le _, h1.ofetch, h1.lx, h1.draw, Nat.zero_le _, h1.delay, h1.suppress⟩
  · exact h1

/-- A pixel pop while drawing keeps the ranges; the pixel that it emits, if any, is the next column of the line, and the last column ends the DRAW mode (R226). -/
theorem Ppu.Ranges.popPixel {p : Ppu} (h : p.Ranges) (hx : p.lx < 160) (r : Lcd) :
    (p.popPixel r).1.Ranges ∧ ∀ px, (p.popPixel r).2 = some px →
      px.x = p.lx ∧ px.y = p.line ∧ (p.popPixel r).1.lx = p.lx + 1 ∧ p.suppress = 0
        ∧ (p.popPixel r).1.mode = (if px.x = 159 then .hblank else p.mode) := by
  unfold Ppu.popPixel
  split
  · exact ⟨h, fun px hp => by cases hp⟩
  · next bc rest hb =>
    have hl := h.bg
    rw [hb, List.length_cons] at hl
    split
    · exact ⟨⟨h.objs, h.sorted, by show rest.length ≤ 8; omega, h.obj, h.fetch, h.ofetch, h.lx, h.draw,
        by show p.discard - 1 ≤ 7; have := h.discard; omega, h.delay, h.suppress⟩, fun px hp => by cases hp⟩
    · refine ⟨⟨h.objs, h.sorted, by show rest.length ≤ 8; omega, ?_, h.fetch, h.ofetch, by show p.lx + 1 ≤ 160; omega, ?_, h.discard, h.delay,
        h.suppress⟩, ?_⟩
      · have := h.obj
        show (p.objFifo.tail ++ [ObjPixel.transparent]).length = 8
        simp [this]
      · intro hm
        show p.lx + 1 < 160
        have hm' : (if p.lx + 1 = 160 then PpuMode.hblank else p.mode) = .draw := hm
        split at hm'
        · cases hm'
        · omega
      · intro px hp
        dsimp only at hp
        split at hp
        · cases hp; exact ⟨rfl, rfl, rfl, by assumption, by simp⟩
        · cases hp

/-- A draw dot keeps the ranges; the pixel that it emits, if any, is the next column of the line, and the last column ends the DRAW mode (R222, R226). -/
theorem Ppu.Ranges.drawDot {p : Ppu} (h : p.Ranges) (hx : p.lx < 160) (r : Lcd) (peek : Word → Byte) :
    (p.drawDot r peek).1.Ranges ∧ ∀ px, (p.drawDot r peek).2 = some px →
      px.x = p.lx ∧ px.y = p.line ∧ (p.drawDot r peek).1.lx = p.lx + 1 ∧ p.suppress = 0
        ∧ (p.drawDot r peek).1.mode = (if px.x = 159 then .hblank else p.mode) := by
  unfold Ppu.drawDot
  split
  · exact ⟨⟨h.objs, h.sorted, h.bg, h.obj, h.fetch, h.ofetch, h.lx, h.draw, h.discard, by show p.delay - 1 ≤ 100; have := h.delay; omega,
      h.suppress⟩, fun px hp => by cases hp⟩
  · split
    · exact ⟨h.objStep r peek, fun px hp => by cases hp⟩
    · have hw := h.startWindow r
      have hpos := p.startWindow_position r
      have hlx : ((p.latchWx r).startWindow r).lx = p.lx := by
        unfold Ppu.startWindow Ppu.latchWx; split <;> split <;> rfl
      dsimp only
      split
      · next i _ =>
        have ho : Ppu.Ranges { (p.latchWx r).startWindow r with
            ofetch := { ((p.latchWx r).startWindow r).ofetch with active := true, stage := 0, obj := i } } :=
          ⟨hw.objs, hw.sorted, hw.bg, hw.obj, hw.fetch, Nat.zero_le _, hw.lx, hw.draw, hw.discard, hw.delay, hw.suppress⟩
        exact ⟨ho.objStep r peek, fun px hp => by cases hp⟩
      · have hb := hw.bgStep r peek
        have hbpos := hpos.trans (Ppu.bgStep_position _ r peek)
        have hblx : (((p.latchWx r).startWindow r).bgStep r peek).lx = p.lx := by
          rw [← hlx]; unfold Ppu.bgStep; split <;> (try split) <;> rfl
        have hbm : (((p.latchWx r).startWindow r).bgStep r peek).mode = p.mode := by
          have hm : ((p.latchWx r).startWindow r).mode = p.mode := by
            unfold Ppu.startWindow Ppu.latchWx; split <;> split <;> rfl
          rw [← hm]; unfold Ppu.bgStep; split <;> (try split) <;> rfl
        split
        · exact ⟨hb, fun px hp => by cases hp⟩
        · have q := hb.popPixel (by rw [hblx]; exact hx) r
          rw [hblx, hbpos.line, hbpos.suppress, hbm] at q
          exact q

theorem Ppu.Ranges.advance {p : Ppu} (h : p.Ranges) : p.advance.Ranges := by
  have := h.suppress
  unfold Ppu.advance
  split
  · dsimp only
    split
    · exact ⟨h.objs, h.sorted, h.bg, h.obj, h.fetch, h.ofetch, h.lx, h.draw, h.discard, h.delay, by show p.suppress - 1 ≤ 2; omega⟩
    · exact ⟨h.objs, h.sorted, h.bg, h.obj, h.fetch, h.ofetch, h.lx, h.draw, h.discard, h.delay, h.suppress⟩
  · exact ⟨h.objs, h.sorted, h.bg, h.obj, h.fetch, h.ofetch, h.lx, h.draw, h.discard, h.delay, h.suppress⟩

/-- A power toggle keeps the ranges. -/
theorem Ppu.Ranges.powerToggle {p : Ppu} (h : p.Ranges) (old new : Byte) : (p.powerToggle old new).Ranges := by
  unfold Ppu.powerToggle Ppu.reset
  split
  · exact ⟨Nat.zero_le _, List.Pairwise.nil, Nat.zero_le _, rfl, Nat.zero_le _, h.ofetch, Nat.zero_le _, (fun c => by cases c), Nat.zero_le _,
      Nat.zero_le _, h.suppress⟩
  · exact ⟨Nat.zero_le _, List.Pairwise.nil, Nat.zero_le _, rfl, Nat.zero_le _, h.ofetch, Nat.zero_le _, (fun c => by cases c), Nat.zero_le _,
      Nat.zero_le _, Nat.le_refl _⟩
  · exact h

/-- Merging the first pixels of an object: a transparent slot takes the opaque pixel of its column, every other slot stays (R225). -/
theorem foldl_mergeObjPixel_slot (o : ObjEntry) (attr lo hi : Byte) (lx : Nat) (c : Nat → Colour)
    (hc : ∀ j, planeColour lo hi (if attr.getLsbD 5 then j else 7 - j) = c j) (q : List ObjPixel) (n : Nat) (hn : n ≤ 8) :
    ((List.range n).foldl (mergeObjPixel o attr lo hi lx) q).length = q.length ∧
    ∀ k < q.length, ((List.range n).foldl (mergeObjPixel o attr lo hi lx) q).getD k ObjPixel.transparent =
      if (q.getD k ObjPixel.transparent).c = 0 ∧ k < 8 ∧ 0 ≤ (lx : Int) + k + 8 - o.x.toNat ∧ (lx : Int) + k + 8 - o.x.toNat < n
          ∧ c ((lx : Int) + k + 8 - o.x.toNat).toNat ≠ 0
      then { c := c ((lx : Int) + k + 8 - o.x.toNat).toNat, pal := attr.getLsbD 4, prio := attr.getLsbD 7 } else q.getD k ObjPixel.transparent := by
  induction n with
  | zero => refine ⟨rfl, fun k hk => ?_⟩; rw [if_neg]; rfl; omega
  | succ n ih =>
    obtain ⟨i1, i2⟩ := ih (by omega)
    rw [List.range_succ, List.foldl_append, List.foldl_cons, List.foldl_nil]
    generalize (List.range n).foldl (mergeObjPixel o attr lo hi lx) q = q' at i1 i2
    unfold mergeObjPixel
    dsimp only
    rw [hc]
    by_cases hd : 0 ≤ (o.x.toNat : Int) - 8 + n - lx ∧ (o.x.toNat : Int) - 8 + n - lx < 8 ∧ c n ≠ 0 ∧ (q'.getD ((o.x.toNat : Int) - 8 + n - lx).toNat ObjPixel.transparent).c = 0
    · rw [if_pos hd]
      refine ⟨by rw [List.length_set]; exact i1, fun k hk => ?_⟩
      obtain ⟨d1, d2, d3, d4⟩ := hd
      by_cases hkk : k = ((o.x.toNat : Int) - 8 + n - lx).toNat
      · have hj : (lx : Int) + k + 8 - o.x.toNat = n := by omega
        rw [← hkk] at d4 ⊢
        rw [i2 k hk, if_neg (by omega)] at d4
        rw [if_pos ⟨d4, by omega, by omega, by omega, by rw [hj]; exact d3⟩, hj]
        rw [List.getD_eq_getElem?_getD, List.getElem?_set_self (by omega)]; rfl
      · have e : (q'.set ((o.x.toNat : Int) - 8 + n - lx).toNat { c := c n, pal := attr.getLsbD 4, prio := attr.getLsbD 7 }).getD k ObjPixel.transparent = q'.getD k ObjPixel.transparent := by
          rw [List.getD_eq_getElem?_getD, List.getElem?_set_ne (Ne.symm hkk), List.getD_eq_getElem?_getD]
        rw [e, i2 k hk]
        have : ((lx : Int) + k + 8 - o.x.toNat < n) ↔ ((lx : Int) + k + 8 - o.x.toNat < (n + 1 : Nat)) := by omega
        simp only [this]
    · rw [if_neg hd]
      refine ⟨i1, fun k hk => ?_⟩
      rw [i2 k hk]
      by_cases hj : (lx : Int) + k + 8 - o.x.toNat = n
      · rw [if_neg (by omega)]
        rw [if_neg]
        rintro ⟨c1, c2, c3, c4, c5⟩
        rw [hj] at c5
        have hk' : ((o.x.toNat : Int) - 8 + n - lx).toNat = k := by omega
        refine hd ⟨by omega, by omega, c5, ?_⟩
        rw [hk', i2 k hk, if_neg (by omega)]; exact c1
      · have : ((lx : Int) + k + 8 - o.x.toNat < n) ↔ ((lx : Int) + k + 8 - o.x.toNat < (n + 1 : Nat)) := by omega
        simp only [this]

/-! ### The pixel and the due object of a DRAW dot -/

/-- What the latch and the window start leave alone; the fetcher and its queue stay, or start again with the queue empty (R222, R224). -/
theorem Ppu.startWindow_cases (p : Ppu) (r : Lcd) :
    let w := (p.latchWx r).startWindow r
    w.lx = p.lx ∧ w.objFifo = p.objFifo ∧ w.mode = p.mode ∧ w.line = p.line ∧ w.suppress = p.suppress
      ∧ ((w.bgFifo = [] ∧ w.fetch.stage = 0) ∨ (w.bgFifo = p.bgFifo ∧ w.fetch = p.fetch)) := by
  unfold Ppu.startWindow Ppu.latchWx
  dsimp only
  split <;> split <;> simp

/-- What a fetcher step leaves alone; the queue stays, or takes the fetched row where it is empty in stage 5 (R223). -/
theorem Ppu.bgStep_cases {w : Ppu} (r : Lcd) (peek : Word → Byte) (hs : w.fetch.stage ≤ 5) :
    let b := w.bgStep r peek
    b.lx = w.lx ∧ b.objFifo = w.objFifo ∧ b.line = w.line ∧ b.suppress = w.suppress ∧ b.mode = w.mode
      ∧ (b.bgFifo = w.bgFifo ∨ (w.bgFifo = [] ∧ w.fetch.stage = 5 ∧ b.bgFifo = tileRow w.fetch.lo w.fetch.hi)) := by
  obtain h | h | h | h | h | h : w.fetch.stage = 0 ∨ w.fetch.stage = 1 ∨ w.fetch.stage = 2 ∨ w.fetch.stage = 3 ∨ w.fetch.stage = 4
      ∨ w.fetch.stage = 5 := by omega
  case inr.inr.inr.inr.inr => unfold Ppu.bgStep; rw [h]; by_cases hb : w.bgFifo = [] <;> simp [hb]
  all_goals unfold Ppu.bgStep; rw [h]; exact ⟨rfl, rfl, rfl, rfl, rfl, .inl rfl⟩

/-- The pixel of a DRAW dot: the next column of the line, in the mix of the two queues' heads; the queues are one shorter and one shifted (R226, R227). -/
theorem Ppu.drawDot_pixel {p : Ppu} (h : p.Ranges) {r : Lcd} {peek : Word → Byte} {px : Pixel} (e : (p.drawDot r peek).2 = some px) :
    ∃ (bc : Colour) (o : ObjPixel) (os : List ObjPixel), px = { x := p.lx, y := p.line, shade := mix r bc o }
      ∧ (p.bgFifo = bc :: (p.drawDot r peek).1.bgFifo
          ∨ (p.bgFifo = [] ∧ p.fetch.stage = 5 ∧ tileRow p.fetch.lo p.fetch.hi = bc :: (p.drawDot r peek).1.bgFifo))
      ∧ p.objFifo = o :: os ∧ (p.drawDot r peek).1.objFifo = os ++ [ObjPixel.transparent] := by
  unfold Ppu.drawDot at e ⊢
  split at e
  · cases e
  split at e
  · cases e
  next h1 h2 =>
  rw [if_neg h1, if_neg h2]
  dsimp only at e ⊢
  split at e
  · cases e
  next hd =>
  split at e
  · cases e
  next hb =>
  rw [if_neg hb]
  have w := p.startWindow_cases r
  have hw := h.startWindow r
  generalize (p.latchWx r).startWindow r = q at w hw e hb
  have b := Ppu.bgStep_cases r peek hw.fetch
  have hbr := hw.bgStep r peek
  dsimp only at w b
  generalize q.bgStep r peek = g at b e hb hbr
  obtain ⟨w1, w2, w3, w4, w5, w6⟩ := w
  obtain ⟨b1, b2, b3, b4, b5, b6⟩ := b
  unfold Ppu.popPixel at e ⊢
  split at e
  · next hn => exact absurd hn hb
  next bc rest hg =>
  simp only
  split at e
  · cases e
  next hdis =>
  rw [if_neg hdis]
  dsimp only at e ⊢
  split at e
  · cases e
    have ho : ∃ o os, g.objFifo = o :: os := by
      have := hbr.obj
      match hx : g.objFifo with
      | [] => rw [hx] at this; cases this
      | o :: os => exact ⟨o, os, rfl⟩
    obtain ⟨o, os, ho⟩ := ho
    refine ⟨bc, o, os, by rw [ho, b1, w1, b3, w4]; rfl, ?_, by rw [← w2, ← b2, ho], by rw [ho]; rfl⟩
    rcases b6 with b6 | ⟨c1, c2, c3⟩
    · rcases w6 with ⟨d1, d2⟩ | ⟨d1, d2⟩
      · rw [b6, d1] at hg; cases hg
      · exact .inl (by rw [← d1, ← b6, hg])
    · rcases w6 with ⟨d1, d2⟩ | ⟨d1, d2⟩
      · omega
      · exact .inr ⟨by rw [← d1]; exact c1, by rw [← d2]; exact c2, by rw [← d2, ← c3, hg]⟩
  · cases e

/-- The object that is due is the first that is not done, once its x is at most lx + 8 (R222). -/
theorem Ppu.dueObj_eq_some {q : Ppu} {r : Lcd} {i : Nat} : q.dueObj r = some i ↔
    r.lcdc.getLsbD 1 = true ∧ q.discard = 0
    ∧ ∃ o, q.objs[i]? = some o ∧ o.done = false ∧ o.x.toNat ≤ q.lx + 8 ∧ ∀ j < i, ∀ e, q.objs[j]? = some e → e.done = true := by
  unfold Ppu.dueObj
  have key : ∀ i, q.objs.findIdx? (fun o => !o.done) = some i ↔
      ∃ o, q.objs[i]? = some o ∧ o.done = false ∧ ∀ j < i, ∀ e, q.objs[j]? = some e → e.done = true := by
    intro i
    rw [List.findIdx?_eq_some_iff_getElem]
    constructor
    · rintro ⟨h, a, b⟩
      refine ⟨q.objs[i], List.getElem?_eq_getElem h, by simpa using a, fun j hj e he => ?_⟩
      have := b j hj
      rw [List.getElem?_eq_getElem (by omega)] at he
      cases he
      simpa using this
    · rintro ⟨o, a, b, c⟩
      obtain ⟨h, rfl⟩ := List.getElem?_eq_some_iff.1 a
      exact ⟨h, by simpa using b, fun j hj => by simpa using c j hj _ (List.getElem?_eq_getElem (by omega))⟩
  constructor
  · intro h
    split at h
    · next hc =>
      split at h
      · cases h
      · next k hk =>
        split at h
        · next hx =>
          cases h
          obtain ⟨o, a, b, c⟩ := (key i).1 hk
          refine ⟨hc.1, hc.2, o, a, b, ?_, c⟩
          rw [List.getD_eq_getElem?_getD, a] at hx
          exact hx
        · cases h
    · cases h
  · rintro ⟨h1, h2, o, a, b, hx, c⟩
    rw [if_pos ⟨h1, h2⟩, (key i).2 ⟨o, a, b, c⟩]
    simp only
    rw [List.getD_eq_getElem?_getD, a]; exact if_pos hx

end Sys2Proof.Machine
end

