-- ==== Sys2Proof/Laws/Devices.lean ====
section
/-! SUPPORT. The steps of the devices in a tick: what each leaves alone, and that each keeps the invariants. -/

namespace Sys2Proof.Machine

/-! ### The timer (60_exceptions.md part 4) -/

theorem Timer.signalNow_congr {t u : Timer} (h1 : t.tac = u.tac) (h2 : t.counter = u.counter) : t.signalNow = u.signalNow := by
  unfold Timer.signalNow Timer.selBit; rw [h1, h2]

/-- An increment of TIMA changes only TIMA and the phase. -/
theorem Timer.incTima_frame (t : Timer) :
    t.incTima.counter = t.counter ∧ t.incTima.tac = t.tac ∧ t.incTima.tma = t.tma ∧ t.incTima.signal = t.signal := by
  unfold Timer.incTima; split
  · split <;> exact ⟨rfl, rfl, rfl, rfl⟩
  · exact ⟨rfl, rfl, rfl, rfl⟩

/-- The edge check remembers the present output, and changes only TIMA and the phase beside it (R214). -/
theorem Timer.edgeCheck_frame (t : Timer) :
    t.edgeCheck.counter = t.counter ∧ t.edgeCheck.tac = t.tac ∧ t.edgeCheck.tma = t.tma ∧ t.edgeCheck.signal = t.signalNow := by
  unfold Timer.edgeCheck
  have f := t.incTima_frame
  dsimp only
  split
  · exact ⟨f.1, f.2.1, f.2.2.1, rfl⟩
  · exact ⟨rfl, rfl, rfl, rfl⟩

/-- The part of `TimerInv` about the phase. -/
def Timer.PhaseOk (t : Timer) : Prop :=
  match t.phase with
  | .idle => True
  | .a k => 1 ≤ k ∧ k ≤ 4 ∧ t.tima = 0
  | .b k => 1 ≤ k ∧ k ≤ 4 ∧ t.tima = t.tma

theorem timerInv_iff (s : State) : TimerInv s ↔ s.timer.signal = s.timer.signalNow ∧ s.timer.PhaseOk := Iff.rfl

theorem Timer.PhaseOk.incTima {t : Timer} (h : t.PhaseOk) : t.incTima.PhaseOk := by
  unfold Timer.incTima
  split
  · split
    · exact ⟨by omega, by omega, rfl⟩
    · next hp _ => unfold Timer.PhaseOk; dsimp only; rw [hp]; exact trivial
  · exact h

theorem Timer.PhaseOk.edgeCheck {t : Timer} (h : t.PhaseOk) : t.edgeCheck.PhaseOk := by
  unfold Timer.edgeCheck
  dsimp only
  split
  · exact h.incTima
  · exact h

/-- After an edge check the timer invariant holds if the phase was right. -/
theorem Timer.edgeCheck_inv {t : Timer} (h : t.PhaseOk) : t.edgeCheck.signal = t.edgeCheck.signalNow ∧ t.edgeCheck.PhaseOk := by
  have f := t.edgeCheck_frame
  exact ⟨by rw [f.2.2.2]; exact (Timer.signalNow_congr f.2.1 f.1).symm, h.edgeCheck⟩

theorem Timer.PhaseOk.advancePhase {t : Timer} (h : t.PhaseOk) : t.advancePhase.1.PhaseOk := by
  unfold Timer.advancePhase
  split
  · exact h
  · next k hp =>
    unfold Timer.PhaseOk at h
    rw [hp] at h
    split
    · exact ⟨by omega, by omega, h.2.2⟩
    · exact ⟨by omega, by omega, rfl⟩
  · next k hp =>
    unfold Timer.PhaseOk at h
    rw [hp] at h
    split
    · exact ⟨by omega, by omega, h.2.2⟩
    · exact trivial

/-- The timer step changes only the timer and, by a request, IF (R215). -/
theorem timerTick_frame (s : State) :
    timerTick s = { s with timer := s.timer.advancePhase.1.advanceCounter,
                           irq.ifl := if s.timer.advancePhase.2 then s.irq.ifl ||| 4#5 else s.irq.ifl } := by
  unfold timerTick
  dsimp only
  split <;> rfl

theorem TimerInv.timerTick {s : State} (h : TimerInv s) : TimerInv (timerTick s) := by
  rw [timerTick_frame, timerInv_iff]
  exact Timer.edgeCheck_inv (Timer.PhaseOk.advancePhase h.2)

/-- A store to a timer register keeps the timer invariant (R214, R216, R217). -/
theorem Timer.write_inv {t : Timer} (h : t.signal = t.signalNow ∧ t.PhaseOk) (v : Byte) :
    (t.writeDiv.signal = t.writeDiv.signalNow ∧ t.writeDiv.PhaseOk) ∧ ((t.writeTac v).signal = (t.writeTac v).signalNow ∧ (t.writeTac v).PhaseOk)
      ∧ ((t.writeTima v).signal = (t.writeTima v).signalNow ∧ (t.writeTima v).PhaseOk)
      ∧ ((t.writeTma v).signal = (t.writeTma v).signalNow ∧ (t.writeTma v).PhaseOk) := by
  have hp := h.2
  refine ⟨Timer.edgeCheck_inv hp, Timer.edgeCheck_inv hp, ?_, ?_⟩
  · unfold Timer.writeTima
    split
    · next hq => refine ⟨h.1, ?_⟩; unfold Timer.PhaseOk; dsimp only; rw [hq]; exact trivial
    · exact ⟨h.1, trivial⟩
    · exact h
  · unfold Timer.writeTma
    split
    · next k hq =>
      refine ⟨h.1, ?_⟩
      unfold Timer.PhaseOk at hp ⊢; dsimp only; rw [hq] at hp ⊢; exact ⟨hp.1, hp.2.1, rfl⟩
    · next hq =>
      refine ⟨h.1, ?_⟩
      unfold Timer.PhaseOk at hp ⊢
      dsimp only
      split
      · exact trivial
      · next k hk => rw [hk] at hp; exact hp
      · next k hk => exact absurd hk (hq k)

/-! ### The pixel pipeline's invariant over a tick and a store -/

theorem PpuInv.ppuStep {s : State} (h : PpuInv s) : PpuInv (ppuStep s) := by
  cases hon : s.ppu.on
  · rw [ppuStep_off s hon]; exact h
  rw [ppuInv_iff] at h ⊢
  obtain ⟨h1, h2, h3, _, h5⟩ := h
  have f := ppuStep_frame s hon
  have w := (dotWork_frame s).2.1
  have a := Ppu.advance_position (p := (dotWork s).ppu) (by rw [w.line]; exact h1) (by rw [w.dot]; exact h2)
  have hr : (dotWork s).ppu.Ranges := by
    unfold dotWork
    have g : (if s.ppu.dot = 0 then lineStart s else s).ppu.Ranges := by
      split
      · rw [(lineStart_frame s).2.1]; exact h5.lineStart s.lcd
      · exact h5
    generalize (if s.ppu.dot = 0 then lineStart s else s) = s1 at g
    dsimp only
    split
    · split
      · split
        · exact g.oamScanEntry _ _ _
        · exact g
      · split
        · rw [(drawDot_frame _).2.1]
          have hd := g.drawInit s1.lcd (d := s1.params.drawStartDelay.val) (by omega)
          exact (hd.drawDot (hd.draw rfl) _ _).1
        · split
          · next hm => rw [(drawDot_frame _).2.1]; exact (g.drawDot (g.draw hm) _ _).1
          · exact g
    · exact g
  have ha := hr.advance
  rw [f.2.2, f.1.lcd]
  refine ⟨a.2.2.2.1, a.2.2.2.2.1, ?_, ?_, ⟨ha.objs, ha.sorted, ha.bg, ha.obj, ha.fetch, ha.ofetch, ha.lx, ha.draw, ha.discard, ha.delay, ha.suppress⟩⟩
  · show (dotWork s).ppu.advance.on = _; rw [a.1, w.on]; exact h3
  · intro c
    have : (dotWork s).ppu.advance.on = false := c
    rw [a.1, w.on, hon] at this
    exact absurd this (by simp)

/-- A dot puts out no pixel, or in a DRAW dot the next one of the line, on the screen (R218, R226, R238). -/
theorem ppuStep_image {s : State} (h : PpuInv s) :
    (ppuStep s).out.image = s.out.image
      ∨ ∃ px, (ppuStep s).out.image = px :: s.out.image ∧ px.x < 160 ∧ px.y < 144 ∧ px.y = s.ppu.line ∧ 80 ≤ s.ppu.dot ∧ s.ppu.dot < 456
          ∧ (ppuStep s).ppu.line * 456 + (ppuStep s).ppu.dot = s.ppu.line * 456 + s.ppu.dot + 1
          ∧ (ppuStep s).ppu.mode = (if px.x = 159 then .hblank else .draw)
          ∧ (ppuStep s).ppu.lx = px.x + 1 ∧ (ppuStep s).ppu.on = true ∧ (ppuStep s).ppu.suppress = 0 := by
  cases hon : s.ppu.on
  · rw [ppuStep_off s hon]; exact .inl rfl
  rw [ppuInv_iff] at h
  obtain ⟨h1, h2, h3, _, h5⟩ := h
  have f := ppuStep_frame s hon
  have w := (dotWork_frame s).2.1
  have a := Ppu.advance_position (p := (dotWork s).ppu) (by rw [w.line]; exact h1) (by rw [w.dot]; exact h2)
  rw [f.2.1, f.2.2]
  have key : (dotWork s).out.image = s.out.image
      ∨ ∃ px, (dotWork s).out.image = px :: s.out.image ∧ px.x < 160 ∧ px.y = s.ppu.line ∧ (dotWork s).ppu.lx = px.x + 1 ∧ (dotWork s).ppu.suppress = 0
          ∧ s.ppu.line < 144 ∧ 80 ≤ s.ppu.dot ∧ (dotWork s).ppu.mode = (if px.x = 159 then .hblank else .draw) := by
    unfold dotWork
    have g : (if s.ppu.dot = 0 then lineStart s else s).ppu.Ranges ∧ (if s.ppu.dot = 0 then lineStart s else s).out = s.out
        ∧ s.ppu.SamePosition (if s.ppu.dot = 0 then lineStart s else s).ppu := by
      split
      · rw [(lineStart_frame s).2.1]; exact ⟨h5.lineStart s.lcd, (lineStart_frame s).2.2.1, s.ppu.lineStart_position s.lcd⟩
      · exact ⟨h5, rfl, .refl _⟩
    generalize (if s.ppu.dot = 0 then lineStart s else s) = s1 at g
    obtain ⟨g1, g2, g3⟩ := g
    have draw : ∀ u : State, u.ppu.Ranges → u.ppu.mode = .draw → u.out = s.out → u.ppu.line = s.ppu.line → s.ppu.line < 144 → 80 ≤ s.ppu.dot →
        (drawDot u).out.image = s.out.image
          ∨ ∃ px, (drawDot u).out.image = px :: s.out.image ∧ px.x < 160 ∧ px.y = s.ppu.line ∧ (drawDot u).ppu.lx = px.x + 1
              ∧ (drawDot u).ppu.suppress = 0 ∧ s.ppu.line < 144 ∧ 80 ≤ s.ppu.dot ∧ (drawDot u).ppu.mode = (if px.x = 159 then .hblank else .draw) := by
      intro u hu hm ho hl hlt hd
      have hx := hu.draw hm
      have fd := drawDot_frame u
      have d := (hu.drawDot hx u.lcd u.peek).2
      have dp := u.ppu.drawDot_position u.lcd u.peek
      rw [fd.2.2.2, fd.2.1]
      cases hpx : (u.ppu.drawDot u.lcd u.peek).2 with
      | none => exact .inl (by rw [ho])
      | some px =>
        obtain ⟨d1, d2, d3, d4, d5⟩ := d px hpx
        rw [hm] at d5
        exact .inr ⟨px, by rw [ho], by omega, by omega, by omega, by rw [dp.suppress]; exact d4, hlt, hd, d5⟩
    dsimp only
    split
    · next hlt =>
      split
      · split
        · exact .inl (by rw [← g2])
        · exact .inl (by rw [g2])
      · next hd =>
        split
        · have hi := g1.drawInit s1.lcd (d := s1.params.drawStartDelay.val) (by omega)
          exact draw _ hi rfl g2 g3.line hlt (by omega)
        · split
          · next hm => exact draw _ g1 hm g2 g3.line hlt (by omega)
          · exact .inl (by rw [g2])
    · exact .inl (by rw [g2])
  rcases key with e | ⟨px, e1, e2, e3, e4, e5, e6, e7, e8⟩
  · exact .inl e
  · refine .inr ⟨px, e1, e2, by omega, e3, e7, h2, ?_, ?_, ?_, ?_, ?_⟩
    · show (dotWork s).ppu.advance.line * 456 + (dotWork s).ppu.advance.dot = _
      rw [a.2.2.2.2.2.1, w.line, w.dot]; omega
    · show (dotWork s).ppu.advance.mode = _; rw [a.2.1]; exact e8
    · rw [← e4]; exact (dotWork s).ppu.advance_column.1
    · show (dotWork s).ppu.advance.on = true; rw [a.1, w.on]; exact hon
    · show (dotWork s).ppu.advance.suppress = 0
      rcases (dotWork s).ppu.advance_column.2 with e | e <;> rw [e] <;> omega

theorem PpuInv.powerToggle {s : State} (h : PpuInv s) (v : Byte) :
    PpuInv { s with lcd.lcdc := v, ppu := s.ppu.powerToggle s.lcd.lcdc v } := by
  rw [ppuInv_iff] at h ⊢
  obtain ⟨h1, h2, h3, h4, h5⟩ := h
  have hr := h5.powerToggle s.lcd.lcdc v
  refine ⟨?_, ?_, ?_, ?_, hr⟩ <;> dsimp only <;> unfold Ppu.powerToggle Ppu.reset <;>
    cases ho : s.lcd.lcdc.getLsbD 7 <;> cases hn : v.getLsbD 7 <;> simp only <;> rw [ho] at h3 <;> first
      | exact h1 | exact h2 | exact h4 | omega | exact h3 | rfl
      | (intro _; trivial)

/-! ### DMA (R235) -/

theorem ramKey_oam {i : Nat} (h : i < 160) : ramKey (BitVec.ofNat 16 (0xFE00 + i)) = some (0xFE00 + i) := by
  have e : (BitVec.ofNat 16 (0xFE00 + i)).toNat = 0xFE00 + i := by rw [BitVec.toNat_ofNat]; omega
  rw [ramKey_eq, e, if_pos (by omega)]

/-- The bypass path writes the byte of object memory that the transfer has reached. -/
theorem State.poke_oam (s : State) {i : Nat} (h : i < 160) (v : Byte) :
    s.poke (BitVec.ofNat 16 (0xFE00 + i)) v = s.setRamByte (0xFE00 + i) v := by
  have e : (BitVec.ofNat 16 (0xFE00 + i)).toNat = 0xFE00 + i := by rw [BitVec.toNat_ofNat]; omega
  unfold State.poke
  rw [busDecode_oam _ (by omega) (by omega), e]
  simp only
  rw [show 0xFE00 + (0xFE00 + i - 0xFE00) = 0xFE00 + i by omega]

/-- A DMA step waits, copies one byte to object memory, or does nothing. -/
theorem dmaTick_cases (s : State) (h : DmaInv s) :
    (s.dma.active = false ∧ dmaTick s = s)
      ∨ (s.dma.active = true ∧ 1 < s.dma.count ∧ dmaTick s = { s with dma.count := s.dma.count - 1 })
      ∨ (s.dma.active = true ∧ s.dma.count = 1
          ∧ dmaTick s = { s.setRamByte (0xFE00 + s.dma.index) (s.dmaRead (s.dma.src + BitVec.ofNat 16 s.dma.index)) with
              dma := { s.dma with index := s.dma.index + 1, count := 4, active := decide (s.dma.index + 1 ≠ 160) } }) := by
  unfold dmaTick
  cases hact : s.dma.active
  · exact .inl ⟨rfl, by simp⟩
  · obtain ⟨hi, hc, _⟩ := h.1 hact
    rw [if_pos rfl]
    by_cases h1 : s.dma.count - 1 = 0
    · rw [if_pos h1]
      dsimp only
      rw [s.poke_oam hi]
      exact .inr (.inr ⟨rfl, by omega, rfl⟩)
    · rw [if_neg h1]
      exact .inr (.inl ⟨rfl, by omega, rfl⟩)

theorem DmaInv.dmaTick {s : State} (h : DmaInv s) : DmaInv (dmaTick s) := by
  rcases dmaTick_cases s h with ⟨_, e⟩ | ⟨ha, hc, e⟩ | ⟨ha, hc, e⟩ <;> rw [e]
  · exact h
  · exact ⟨fun _ => ⟨(h.1 ha).1, by show 1 ≤ s.dma.count - 1; omega, by show s.dma.count - 1 ≤ 5; have := (h.1 ha).2.2; omega⟩, h.2⟩
  · refine ⟨fun c => ?_, h.2⟩
    have c' : s.dma.index + 1 ≠ 160 := of_decide_eq_true c
    have := (h.1 ha).1
    exact ⟨by show s.dma.index + 1 < 160; omega, by show 1 ≤ 4; omega, by show 4 ≤ 5; omega⟩

theorem MemInv.dmaTick {s : State} (h : MemInv s) (hd : DmaInv s) : MemInv (dmaTick s) := by
  rcases dmaTick_cases s hd with ⟨_, e⟩ | ⟨_, _, e⟩ | ⟨_, _, e⟩ <;> rw [e]
  · exact h
  · exact h
  · exact h.setRamByte _ _

/-! ### A DMA step in any state -/

/-- A write on the bypass path leaves the registers of the CPU, the controller, the outputs and the images alone. -/
theorem State.poke_frame (s : State) (a : Word) (v : Byte) :
    (s.poke a v).regs = s.regs ∧ (s.poke a v).cpu = s.cpu ∧ (s.poke a v).cart = s.cart ∧ (s.poke a v).env = s.env
      ∧ (s.poke a v).params = s.params ∧ (s.poke a v).out = s.out ∧ (s.poke a v).ticks = s.ticks ∧ (s.poke a v).ppu = s.ppu
      ∧ (s.poke a v).bus.bootRom = s.bus.bootRom ∧ (s.poke a v).bus.cartRom = s.bus.cartRom
      ∧ (s.poke a v).bus.cartRomLen = s.bus.cartRomLen ∧ (s.poke a v).bus.bootOverlay = s.bus.bootOverlay := by
  unfold State.poke
  split
  case h_10 => generalize ioReg _ = x; cases x <;> simp [State.ioPoke]
  case h_5 => split <;> simp
  all_goals simp

/-! ### The environment (R237) -/

/-- The environment's step may set IF bits 3 and 4 and takes a draw. -/
theorem envStep_eq (s : State) :
    ∃ m, envStep s = { s with irq.ifl := s.irq.ifl ||| m, env.draws := s.env.draws + 1 } ∧ m ∈ [0#5, 8#5, 16#5, 24#5]
      ∧ (s.env.source = .closed → m = 0) := by
  unfold envStep
  dsimp only
  have hs : s.env.source = .closed → s.envSerial = false := fun h => by unfold State.envSerial; rw [h]
  have hj : s.env.source = .closed → s.envJoypad = false := fun h => by unfold State.envJoypad; rw [h]
  cases h1 : s.envSerial <;> cases h2 : s.envJoypad
  · exact ⟨0#5, by simp [State.drawn], by simp, fun _ => rfl⟩
  · exact ⟨16#5, by simp [State.drawn, State.requestIrq, irqMask, irqBit], by simp, fun c => by rw [hj c] at h2; cases h2⟩
  · exact ⟨8#5, by simp [State.drawn, State.requestIrq, irqMask, irqBit], by simp, fun c => by rw [hs c] at h1; cases h1⟩
  · refine ⟨24#5, ?_, by simp, fun c => by rw [hs c] at h1; cases h1⟩
    simp [State.drawn, State.requestIrq, irqMask, irqBit, BitVec.or_assoc]

end Sys2Proof.Machine
end

