-- ==== Sys2Proof/Laws/Peek.lean ====
section
/-! SUPPORT. What a CPU store leaves as it was on the bypass path: every address that the store does not reach. -/

namespace Sys2Proof.Machine

/-! ### The ranges of the regions (20_memory.md R50) -/

/-- Region `r` answers address `b` with the offset `o`. -/
def Region.Covers (r : Region) (b : Word) (o : Nat) : Prop :=
  match r with
  | .boot => b.toNat ≤ 0xFF
  | .romA => b.toNat ≤ 0x7FFF
  | .romB => b.toNat ≤ 0x7FFF
  | .vram => 0x8000 ≤ b.toNat ∧ b.toNat ≤ 0x9FFF ∧ o = b.toNat - 0x8000
  | .eram => 0xA000 ≤ b.toNat ∧ b.toNat ≤ 0xBFFF ∧ o = b.toNat - 0xA000
  | .wram0 => ramKey b = some (0xC000 + o)
  | .wram1 => ramKey b = some (0xD000 + o)
  | .oam => 0xFE00 ≤ b.toNat ∧ b.toNat ≤ 0xFE9F ∧ o = b.toNat - 0xFE00
  | .unmapped => True
  | .io => 0xFF00 ≤ b.toNat ∧ b.toNat ≤ 0xFF7F ∧ o = b.toNat - 0xFF00
  | .hram => 0xFF80 ≤ b.toNat ∧ b.toNat ≤ 0xFFFE ∧ o = b.toNat - 0xFF80
  | .ie => b.toNat = 0xFFFF

/-- The addresses that a region answers. -/
theorem busDecode_range {b : Word} {ov : Bool} {r : Region} {o : Nat} (h : busDecode b ov = (r, o)) : r.Covers b o := by
  have hb := b.isLt
  have hk := ramKey_eq b
  by_cases h1 : b.toNat ≤ 0x7FFF
  · have q := busDecode_rom ov h1
    rw [h] at q
    by_cases h0 : 0xFF < b.toNat
    · have : r ≠ .boot := by
        intro c; rw [c] at h; unfold busDecode at h; dsimp only at h
        rw [if_neg fun c => absurd c.2 (by omega)] at h
        by_cases h2 : b.toNat ≤ 0x3FFF
        · rw [if_pos h2] at h; cases h
        · rw [if_neg h2, if_pos h1] at h; cases h
      rcases q with e | e | e <;> simp only at e <;> subst e
      · exact absurd rfl this
      · exact h1
      · exact h1
    · rcases q with e | e | e <;> simp only at e <;> subst e
      · show b.toNat ≤ 0xFF; omega
      · exact h1
      · exact h1
  by_cases h2 : b.toNat ≤ 0x9FFF
  · rw [busDecode_vram _ (by omega) h2] at h; cases h; exact ⟨by omega, h2, rfl⟩
  by_cases h3 : b.toNat ≤ 0xBFFF
  · rw [busDecode_eram _ (by omega) h3] at h; cases h; exact ⟨by omega, h3, rfl⟩
  by_cases h4 : b.toNat ≤ 0xCFFF
  · rw [busDecode_wram0 _ (by omega) h4] at h; cases h; show ramKey b = _; rw [hk, if_pos (by omega)]; exact congrArg some (by omega)
  by_cases h5 : b.toNat ≤ 0xDFFF
  · rw [busDecode_wram1 _ (by omega) h5] at h; cases h; show ramKey b = _; rw [hk, if_pos (by omega)]; exact congrArg some (by omega)
  by_cases h6 : b.toNat ≤ 0xEFFF
  · rw [busDecode_echo0 _ (by omega) h6] at h; cases h; show ramKey b = _; rw [hk, if_neg (by omega), if_pos (by omega)]
    exact congrArg some (by omega)
  by_cases h7 : b.toNat ≤ 0xFDFF
  · rw [busDecode_echo1 _ (by omega) h7] at h; cases h; show ramKey b = _; rw [hk, if_neg (by omega), if_pos (by omega)]
    exact congrArg some (by omega)
  by_cases h8 : b.toNat ≤ 0xFE9F
  · rw [busDecode_oam _ (by omega) h8] at h; cases h; exact ⟨by omega, h8, rfl⟩
  by_cases h9 : b.toNat ≤ 0xFEFF
  · rw [busDecode_unmapped _ (by omega) h9] at h; cases h; exact trivial
  by_cases h10 : b.toNat ≤ 0xFF7F
  · rw [busDecode_io _ (by omega) h10] at h; cases h; exact ⟨by omega, h10, rfl⟩
  by_cases h11 : b.toNat ≤ 0xFFFE
  · rw [busDecode_hram _ (by omega) h11] at h; cases h; exact ⟨by omega, h11, rfl⟩
  · rw [busDecode_ie _ (by omega)] at h; cases h; show b.toNat = 0xFFFF; omega

/-- The boot overlay matters only below 0x100 (R50). -/
theorem busDecode_overlay {b : Word} (h : 0xFF < b.toNat) (x y : Bool) : busDecode b x = busDecode b y := by
  unfold busDecode
  dsimp only
  rw [if_neg (show ¬(x = true ∧ b.toNat ≤ 0x00FF) from fun c => by omega), if_neg (show ¬(y = true ∧ b.toNat ≤ 0x00FF) from fun c => by omega)]

/-- The RAM key of an address that its region keeps in RAM. -/
theorem ramKey_of_busDecode {b : Word} {ov : Bool} {r : Region} {o : Nat} (h : busDecode b ov = (r, o)) :
    (r = .vram → ramKey b = some (0x8000 + o)) ∧ (r = .wram0 → ramKey b = some (0xC000 + o))
      ∧ (r = .wram1 → ramKey b = some (0xD000 + o)) ∧ (r = .oam → ramKey b = some (0xFE00 + o))
      ∧ (r = .hram → ramKey b = some (0xFF80 + o)) := by
  have q := busDecode_range h
  have hk := ramKey_eq b
  refine ⟨?_, ?_, ?_, ?_, ?_⟩ <;> rintro rfl <;> simp only [Region.Covers] at q
  · rw [hk, if_pos (by omega)]; exact congrArg some (by omega)
  · exact q
  · exact q
  · rw [hk, if_pos (by omega)]; exact congrArg some (by omega)
  · rw [hk, if_pos (by omega)]; exact congrArg some (by omega)

/-! ### What a load on the bypass path depends on (R55) -/

/-- The bypass path reads the byte stores, the controller and the registers. -/
theorem State.peek_congr {s t : State} (b : Word) (h1 : t.bus = s.bus) (h2 : t.cart = s.cart) (h3 : t.irq = s.irq)
    (h4 : t.timer = s.timer) (h5 : t.lcd = s.lcd) (h6 : t.dma = s.dma) : t.peek b = s.peek b := by
  unfold State.peek
  rw [h1]
  generalize hd : busDecode b s.bus.bootOverlay = d
  obtain ⟨r, o⟩ := d
  cases r
  case io => simp only; generalize ioReg o = x; cases x <;> simp [State.ioPeek, State.ioRead, h3, h4, h5, h6]
  all_goals simp [State.defaultRead, State.ramByte, State.romByte, State.cartRamByte, State.cartRamKey, h1, h2, h3]

/-- The bypass path does not see the pixel pipeline. -/
theorem State.peek_setPpu (s : State) (p : Ppu) : State.peek { s with ppu := p } = s.peek :=
  funext fun b => State.peek_congr b rfl rfl rfl rfl rfl rfl

/-- A write of RAM leaves the bytes behind the other keys. -/
theorem State.peek_setRamByte {s : State} (w : Memory.wf (Config.unlisted .ram) s.bus.ram = true) {k : Nat} (v : Byte) {b : Word}
    (h : ramKey b ≠ some k) : (s.setRamByte k v).peek b = s.peek b := by
  have hr : ∀ j, ramKey b = some j → (s.setRamByte k v).ramByte j = s.ramByte j := by
    intro j hj; rw [State.ramByte_setRamByte w, if_neg]; intro c; rw [c] at hj; exact h hj
  have hb : (s.setRamByte k v).bus.bootOverlay = s.bus.bootOverlay := rfl
  unfold State.peek
  rw [hb]
  generalize hd : busDecode b s.bus.bootOverlay = d
  obtain ⟨r, o⟩ := d
  obtain ⟨q1, q2, q3, q4, q5⟩ := ramKey_of_busDecode hd
  cases r
  case io => simp only; generalize ioReg o = x; cases x <;> rfl
  case vram => exact hr _ (q1 rfl)
  case wram0 => exact hr _ (q2 rfl)
  case wram1 => exact hr _ (q3 rfl)
  case oam => exact hr _ (q4 rfl)
  case hram => exact hr _ (q5 rfl)
  all_goals rfl

/-- A write of cartridge RAM leaves the other addresses. -/
theorem State.peek_setCartRamByte {s : State} (w : Memory.wf (Config.unlisted .cartRam) s.bus.cartRam = true) {o : Nat} (v : Byte) {b : Word}
    (h : ¬(0xA000 ≤ b.toNat ∧ b.toNat ≤ 0xBFFF ∧ b.toNat - 0xA000 = o)) : (s.setCartRamByte o v).peek b = s.peek b := by
  have hb : (s.setCartRamByte o v).bus.bootOverlay = s.bus.bootOverlay := rfl
  unfold State.peek
  rw [hb]
  generalize hd : busDecode b s.bus.bootOverlay = d
  obtain ⟨r, p⟩ := d
  have q := busDecode_range hd
  cases r
  case io => simp only; generalize ioReg p = x; cases x <;> rfl
  case eram =>
    simp only [Region.Covers] at q ⊢
    have e : (s.setCartRamByte o v).cartRamByte p = s.cartRamByte p := by
      refine Memory.read_write_ne w v ?_
      show s.cartRamKey p ≠ s.cartRamKey o
      unfold State.cartRamKey
      omega
    rw [e]
    rfl
  all_goals rfl

/-- A store to one register leaves the stored bits of the others, but for TIMA, which stores to DIV, TMA and TAC may move. -/
theorem State.ioPeek_ioWrite (s : State) (v : Byte) (x y : IoReg) (h : x ≠ y) (ht : y ≠ .tima ∨ (x ≠ .div ∧ x ≠ .tma ∧ x ≠ .tac)) :
    (s.ioWrite v x).ioPeek y = s.ioPeek y := by
  cases x <;> cases y <;> first
    | exact absurd rfl h
    | rfl
    | (simp [State.ioWrite, State.ioPeek, State.ioRead, Timer.writeDiv, Timer.writeTima, Timer.writeTma, Timer.writeTac, Timer.edgeCheck,
        Timer.incTima] <;> (repeat' split) <;> first | rfl | simp_all)

/-- The registers that store something have one address each (10_state.md R27). -/
theorem ioReg_inj {o p : Nat} (ho : o < 128) (hp : p < 128) (h : ioReg o = ioReg p) (h1 : ioReg o ≠ .env) (h2 : ioReg o ≠ .unused) : o = p := by
  have t : ∀ x : Fin 128, ∀ y : Fin 128, ioReg x.val = ioReg y.val → ioReg x.val = .env ∨ ioReg x.val = .unused ∨ x = y := by decide +kernel
  rcases t ⟨o, ho⟩ ⟨p, hp⟩ h with e | e | e
  · exact absurd e h1
  · exact absurd e h2
  · exact congrArg Fin.val e

theorem ioReg_offset {o : Nat} (h : o < 128) :
    (ioReg o = .div → o = 0x04) ∧ (ioReg o = .tima → o = 0x05) ∧ (ioReg o = .tma → o = 0x06) ∧ (ioReg o = .tac → o = 0x07)
      ∧ (ioReg o = .ifl → o = 0x0F) ∧ (ioReg o = .boot → o = 0x50) := by
  revert o; decide +kernel

/-- A store to a register leaves the bypass path wherever another register, or none that the store moves, answers. -/
theorem State.peek_ioWrite_of (s : State) (v : Byte) {x : IoReg} {b : Word} (hboot : x = .boot → 0xFF < b.toNat)
    (hio : ∀ o, 0xFF00 ≤ b.toNat → o = b.toNat - 0xFF00 → o < 128 →
      x = .env ∨ x = .unused ∨ (x ≠ ioReg o ∧ (ioReg o ≠ .tima ∨ (x ≠ .div ∧ x ≠ .tma ∧ x ≠ .tac)))) :
    (s.ioWrite v x).peek b = s.peek b := by
  have f := s.ioWrite_frame v x
  have hdec : busDecode b (s.ioWrite v x).bus.bootOverlay = busDecode b s.bus.bootOverlay := by
    by_cases hbb : b.toNat ≤ 0xFF
    · have hx : x ≠ .boot := fun c => absurd (hboot c) (by omega)
      have : (s.ioWrite v x).bus = s.bus := by cases x <;> first | rfl | exact absurd rfl hx
      rw [this]
    · exact busDecode_overlay (by omega) _ _
  unfold State.peek
  rw [hdec]
  generalize hd : busDecode b s.bus.bootOverlay = d
  obtain ⟨r, o⟩ := d
  have q := busDecode_range hd
  cases r
  case io =>
    simp only [Region.Covers] at q ⊢
    have h := hio o q.1 q.2.2 (by omega)
    generalize ioReg o = y at h ⊢
    rcases h with h | h | ⟨h1, h2⟩
    · subst h; rfl
    · subst h; rfl
    · exact State.ioPeek_ioWrite s v x y h1 h2
  case ie =>
    simp only [State.defaultRead]
    exact f.2.2.1
  all_goals simp [State.defaultRead, State.ramByte, State.romByte, State.cartRamByte, State.cartRamKey, f]

/-- A store to a register leaves the bypass path at every address that it does not reach. -/
theorem State.peek_ioWrite (s : State) {a : Word} (v : Byte) {b : Word} (h1 : 0xFF00 ≤ a.toNat) (h2 : a.toNat ≤ 0xFF7F) (hab : a.toNat ≠ b.toNat)
    (htima : ¬(a.toNat ∈ [0xFF04, 0xFF06, 0xFF07] ∧ b.toNat = 0xFF05)) (hboot : ¬(a.toNat = 0xFF50 ∧ b.toNat ≤ 0xFF)) :
    (s.ioWrite v (ioReg (a.toNat - 0xFF00))).peek b = s.peek b := by
  obtain ⟨i, hi⟩ : ∃ i, i = a.toNat - 0xFF00 := ⟨_, rfl⟩
  rw [← hi]
  have hi' : i < 128 := by omega
  have ha := ioReg_offset hi'
  refine s.peek_ioWrite_of v (fun c => ?_) fun o hb ho hb' => ?_
  · have := ha.2.2.2.2.2 c
    by_contra hn
    exact hboot ⟨by omega, by omega⟩
  · have hq := ioReg_offset hb'
    by_cases hxe : ioReg i = .env
    · exact .inl hxe
    by_cases hxu : ioReg i = .unused
    · exact .inr (.inl hxu)
    refine .inr (.inr ⟨fun c => ?_, ?_⟩)
    · have := ioReg_inj hi' hb' c hxe hxu; omega
    · by_cases hy : ioReg o = .tima
      · have h5 := hq.2.1 hy
        refine .inr ⟨fun c => htima ⟨?_, by omega⟩, fun c => htima ⟨?_, by omega⟩, fun c => htima ⟨?_, by omega⟩⟩
        · have := ha.1 c; simp only [List.mem_cons, List.not_mem_nil, or_false]; omega
        · have := ha.2.2.1 c; simp only [List.mem_cons, List.not_mem_nil, or_false]; omega
        · have := ha.2.2.2.1 c; simp only [List.mem_cons, List.not_mem_nil, or_false]; omega
      · exact .inl hy

/-- A store to the controller leaves every address outside the banked windows. -/
theorem State.peek_cartStore (s : State) (a : Word) (v : Byte) {b : Word}
    (h : ¬(b.toNat ≤ 0x7FFF ∨ (0xA000 ≤ b.toNat ∧ b.toNat ≤ 0xBFFF))) : (s.cartStore a v).peek b = s.peek b := by
  have f := s.cartStore_frame a v
  unfold State.peek
  rw [f.2.2.2.2.2.2.2.1]
  generalize hd : busDecode b s.bus.bootOverlay = d
  obtain ⟨r, o⟩ := d
  have q := busDecode_range hd
  cases r
  case boot | romA | romB => all_goals (exfalso; simp only [Region.Covers] at q; omega)
  case eram => exfalso; simp only [Region.Covers] at q; omega
  case io => simp only; generalize ioReg o = x; cases x <;> simp [State.ioPeek, State.ioRead, f]
  all_goals simp [State.defaultRead, State.ramByte, f]

/-- A store to IE leaves every other address. -/
theorem State.peek_setIe (s : State) (v : Byte) {b : Word} (h : b.toNat ≠ 0xFFFF) : State.peek { s with irq.ie := v } b = s.peek b := by
  have hb : State.peek { s with irq.ie := v } b =
      match busDecode b s.bus.bootOverlay with
      | (.io, o) => State.ioPeek { s with irq.ie := v } (ioReg o)
      | (.eram, o) => if s.cart.answers.ramPresent then s.cartRamByte o else 0xFF
      | (r, o) => State.defaultRead { s with irq.ie := v } r o := rfl
  rw [hb]
  unfold State.peek
  generalize hd : busDecode b s.bus.bootOverlay = d
  obtain ⟨r, o⟩ := d
  have q := busDecode_range hd
  cases r
  case ie => exact absurd q h
  case io => simp only; generalize ioReg o = x; cases x <;> rfl
  all_goals rfl

/-- A store leaves the bypass path at every address that it does not reach. -/
theorem State.peek_store {s : State} (w : MemInv s) (a : Word) (v : Byte) {b : Word} (h : ¬ storeReaches a b) :
    (s.store a v).peek b = s.peek b := by
  unfold storeReaches at h
  simp only [not_or] at h
  obtain ⟨hne, hram, hcart, htima, hboot⟩ := h
  have hab : a.toNat ≠ b.toNat := fun c => hne (BitVec.eq_of_toNat_eq c)
  rcases s.store_cases a v with ⟨ha, e⟩ | ⟨k, hk, e | e⟩ | ⟨ha1, ha2, e | e⟩ | ⟨_, _, e⟩ | ⟨h1, h2, e⟩ | ⟨ha, e⟩
  · rw [e]; exact s.peek_cartStore a v fun c => hcart ⟨ha, c⟩
  · rw [e]; exact State.peek_setRamByte w.1 v (by rw [← hk]; exact fun c => hram ⟨by rw [hk]; exact Option.some_ne_none k, c.symm⟩)
  · rw [e]
  · rw [e]; exact State.peek_setCartRamByte w.2.2.2.1 v (by omega)
  · rw [e]
  · rw [e]
  · rw [e]; exact s.peek_ioWrite v h1 h2 hab htima hboot
  · rw [e]; exact s.peek_setIe v (by omega)

end Sys2Proof.Machine
end

