-- ==== Sys2Proof/Laws/Frames.lean ====
section
/-! SUPPORT. Frames by composition: what a sequence of updates and stores to a list of addresses leaves as it was, one lemma per kind of update. -/

namespace Sys2Proof.Machine

/-- From `s` to `t` nothing has happened but stores to the addresses `l`, updates of the registers and the control state, and draws of the
environment. -/
structure StoresOnly (l : List Word) (s t : State) : Prop where
  memory : MemInv s → MemInv t
  ram : MemInv s → ∀ k, (∀ a ∈ l, ramKey a ≠ some k) → t.ramByte k = s.ramByte k
  peek : MemInv s → ∀ b, (∀ a ∈ l, ¬ storeReaches a b) → t.peek b = s.peek b
  fixed : SameFixed s t
  out : t.out = s.out
  ticks : t.ticks = s.ticks
  devices : (∀ a ∈ l, (ramKey a).isSome = true) →
    t.irq = s.irq ∧ t.timer = s.timer ∧ t.lcd = s.lcd ∧ t.ppu = s.ppu ∧ t.dma = s.dma ∧ t.cart = s.cart
      ∧ t.bus.bootOverlay = s.bus.bootOverlay ∧ t.bus.cartRam = s.bus.cartRam
  ifl : (0xFF0F : Word) ∉ l → t.irq.ifl = s.irq.ifl
  timer : TimerInv s → TimerInv t
  pixels : PpuInv s → PpuInv t
  transfer : DmaInv s → DmaInv t

/-- An update of the registers, the control state and the number of draws is a frame with no store. -/
theorem StoresOnly.of_eq {s t : State} (h1 : t.bus = s.bus) (h2 : t.cart = s.cart) (h3 : t.irq = s.irq) (h4 : t.timer = s.timer)
    (h5 : t.lcd = s.lcd) (h6 : t.ppu = s.ppu) (h7 : t.dma = s.dma) (h8 : t.env.source = s.env.source) (h9 : t.params = s.params)
    (h10 : t.out = s.out) (h11 : t.ticks = s.ticks) : StoresOnly [] s t where
  memory h := by unfold MemInv at h ⊢; rw [h1]; exact h
  ram _ k _ := by unfold State.ramByte; rw [h1]
  peek _ b _ := State.peek_congr b h1 h2 h3 h4 h5 h7
  fixed := by unfold SameFixed; rw [h1, h2]; exact ⟨rfl, rfl, rfl, h8, h9, rfl⟩
  out := h10
  ticks := h11
  devices _ := ⟨h3, h4, h5, h6, h7, h2, by rw [h1], by rw [h1]⟩
  ifl _ := by rw [h3]
  timer h := by unfold TimerInv at h ⊢; rw [h4]; exact h
  pixels h := by rw [ppuInv_iff] at h ⊢; rw [h5, h6]; exact h
  transfer h := by unfold DmaInv at h ⊢; rw [h7]; exact h

theorem StoresOnly.refl (s : State) : StoresOnly [] s s := .of_eq rfl rfl rfl rfl rfl rfl rfl rfl rfl rfl rfl

/-- Frames compose. -/
theorem StoresOnly.trans {l m : List Word} {s t u : State} (h : StoresOnly l s t) (g : StoresOnly m t u) : StoresOnly (l ++ m) s u where
  memory w := g.memory (h.memory w)
  ram w k hk := by
    rw [g.ram (h.memory w) k fun a ha => hk a (List.mem_append_right _ ha), h.ram w k fun a ha => hk a (List.mem_append_left _ ha)]
  peek w b hb := by
    rw [g.peek (h.memory w) b fun a ha => hb a (List.mem_append_right _ ha), h.peek w b fun a ha => hb a (List.mem_append_left _ ha)]
  fixed := by
    obtain ⟨a1, a2, a3, a4, a5, a6⟩ := h.fixed
    obtain ⟨b1, b2, b3, b4, b5, b6⟩ := g.fixed
    exact ⟨b1.trans a1, b2.trans a2, b3.trans a3, b4.trans a4, b5.trans a5, b6.trans a6⟩
  out := g.out.trans h.out
  ticks := g.ticks.trans h.ticks
  devices hl := by
    obtain ⟨a1, a2, a3, a4, a5, a6, a7, a8⟩ := h.devices fun a ha => hl a (List.mem_append_left _ ha)
    obtain ⟨b1, b2, b3, b4, b5, b6, b7, b8⟩ := g.devices fun a ha => hl a (List.mem_append_right _ ha)
    exact ⟨b1.trans a1, b2.trans a2, b3.trans a3, b4.trans a4, b5.trans a5, b6.trans a6, b7.trans a7, b8.trans a8⟩
  ifl hl := (g.ifl fun c => hl (List.mem_append_right _ c)).trans (h.ifl fun c => hl (List.mem_append_left _ c))
  timer w := g.timer (h.timer w)
  pixels w := g.pixels (h.pixels w)
  transfer w := g.transfer (h.transfer w)

/-- A store to a register keeps the invariants of the devices (60_exceptions.md R214, R216, R217, R233, R234). -/
theorem State.ioWrite_inv (s : State) (v : Byte) (r : IoReg) :
    (TimerInv s → TimerInv (s.ioWrite v r)) ∧ (PpuInv s → PpuInv (s.ioWrite v r)) ∧ (DmaInv s → DmaInv (s.ioWrite v r)) := by
  cases r
  case div => exact ⟨fun h => (Timer.write_inv h v).1, fun h => h, fun h => h⟩
  case tima => exact ⟨fun h => (Timer.write_inv h v).2.2.1, fun h => h, fun h => h⟩
  case tma => exact ⟨fun h => (Timer.write_inv h v).2.2.2, fun h => h, fun h => h⟩
  case tac => exact ⟨fun h => (Timer.write_inv h v).2.1, fun h => h, fun h => h⟩
  case lcdc => exact ⟨fun h => h, fun h => h.powerToggle v, fun h => h⟩
  case dma => exact ⟨fun h => h, fun h => h, fun _ => ⟨fun _ => ⟨show 0 < 160 by omega, show 1 ≤ 5 by omega, show 5 ≤ 5 by omega⟩, loByte_joinBytes v 0⟩⟩
  case boot => unfold State.ioWrite; dsimp only; split <;> exact ⟨fun h => h, fun h => h, fun h => h⟩
  all_goals exact ⟨fun h => h, fun h => h, fun h => h⟩

/-- A CPU store keeps the invariants of the devices. -/
theorem State.store_inv (s : State) (a : Word) (v : Byte) :
    (TimerInv s → TimerInv (s.store a v)) ∧ (PpuInv s → PpuInv (s.store a v)) ∧ (DmaInv s → DmaInv (s.store a v)) := by
  have same : (TimerInv s → TimerInv s) ∧ (PpuInv s → PpuInv s) ∧ (DmaInv s → DmaInv s) := ⟨id, id, id⟩
  have rom : (TimerInv s → TimerInv (s.cartStore a v)) ∧ (PpuInv s → PpuInv (s.cartStore a v)) ∧ (DmaInv s → DmaInv (s.cartStore a v)) := by
    unfold State.cartStore
    split
    · exact same
    · split <;> exact same
    · exact same
    · exact same
  unfold State.store
  split
  · exact rom
  · exact rom
  · exact rom
  · split <;> exact same
  · split <;> exact same
  · exact same
  · exact same
  · split <;> exact same
  · exact same
  · exact s.ioWrite_inv v _
  · exact same
  · exact same

/-- A CPU store may change the state of the controller, never its strategy (20_memory.md R60). -/
theorem State.store_strategy (s : State) (a : Word) (v : Byte) : (s.store a v).cart.strategy = s.cart.strategy := by
  have rom : (s.cartStore a v).cart.strategy = s.cart.strategy := by
    unfold State.cartStore
    split
    · rfl
    · rename_i h; split <;> simp [h, Controller.strategy]
    · rename_i h; simp [h, Controller.strategy]
    · rename_i h; simp [h, Controller.strategy]
  unfold State.store
  split
  · exact rom
  · exact rom
  · exact rom
  · split <;> rfl
  · split <;> rfl
  · rfl
  · rfl
  · split <;> rfl
  · rfl
  · rw [(s.ioWrite_frame v _).2.2.2.1]
  · rfl
  · rfl

/-- A CPU store is a frame with its own address. -/
theorem StoresOnly.store (s : State) (a : Word) (v : Byte) : StoresOnly [a] s (s.store a v) where
  memory h := h.store a v
  ram w k hk := State.ramByte_store w v (hk a List.mem_cons_self)
  peek w b hb := State.peek_store w a v (hb a List.mem_cons_self)
  fixed := ⟨s.store_bootRom a v, s.store_cartRom a v, s.store_cartRomLen a v, s.store_source a v, s.store_params a v, s.store_strategy a v⟩
  out := s.store_out a v
  ticks := s.store_ticks a v
  devices hl := by
    obtain ⟨k, hk⟩ := Option.isSome_iff_exists.1 (hl a List.mem_cons_self)
    rcases State.store_of_ramKey (s := s) v hk with e | e <;> rw [e] <;> exact ⟨rfl, rfl, rfl, rfl, rfl, rfl, rfl, rfl⟩
  ifl hl := s.store_ifl a v fun c => hl (c ▸ List.mem_cons_self)
  timer := (s.store_inv a v).1
  pixels := (s.store_inv a v).2.1
  transfer := (s.store_inv a v).2.2

/-- A CPU load is a frame with no store. -/
theorem StoresOnly.afterLoad (s : State) (a : Word) : StoresOnly [] s (s.afterLoad a) := by
  apply StoresOnly.of_eq <;> simp

/-- Updates of the registers and the control state after a frame keep it. -/
theorem StoresOnly.regs {l : List Word} {s t u : State} (h : StoresOnly l s t) (e : u = { t with regs := u.regs, cpu := u.cpu }) :
    StoresOnly l s u := by
  have g : StoresOnly [] t u := by rw [e]; exact .of_eq rfl rfl rfl rfl rfl rfl rfl rfl rfl rfl rfl
  simpa using h.trans g

/-- `push16` is a frame with the two bytes of the stack. -/
theorem StoresOnly.push16 (s : State) (v : Word) : StoresOnly [s.regs.sp - 1, s.regs.sp - 2] s (s.push16 v) := by
  rw [State.push16_eq]
  exact ((StoresOnly.store s (s.regs.sp - 1) (hiByte v)).trans (StoresOnly.store _ (s.regs.sp - 2) (loByte v))).regs rfl

/-- `pop16` and a fetch are frames with no store. -/
theorem StoresOnly.afterPop (s : State) : StoresOnly [] s s.afterPop := by
  apply StoresOnly.of_eq <;> simp

theorem StoresOnly.afterFetch (s : State) : StoresOnly [] s s.afterFetch := by
  apply StoresOnly.of_eq <;> simp

end Sys2Proof.Machine
end

