-- ==== Sys2Proof/Laws/Cycle.lean ====
section
/-! SUPPORT. The parts of a cycle: what `beginCycle` and the wake change, and that the fetch of an opcode and its operands is the decoding of the bytes that
the bus gives. -/

namespace Sys2Proof.Machine

/-- Steps 1 and 2 of a cycle change only IME, the EI delay and `instrAddr` (30_encoding.md R71). -/
theorem beginCycle_eq (s : State) :
    ∃ ime d, beginCycle s = { s with cpu := { s.cpu with ime := ime, eiDelay := d, instrAddr := s.regs.pc } }
      ∧ (s.cpu.eiDelay ≠ 1 → ime = s.cpu.ime) ∧ d ≤ s.cpu.eiDelay := by
  unfold beginCycle resolveEi
  split
  · refine ⟨_, _, rfl, fun h => ?_, Nat.sub_le _ _⟩
    have : decide (s.cpu.eiDelay - 1 = 0) = false := by simp; omega
    rw [this, Bool.or_false]
  · exact ⟨s.cpu.ime, s.cpu.eiDelay, rfl, fun _ => rfl, Nat.le_refl _⟩

@[simp] theorem beginCycle_regs (s : State) : (beginCycle s).regs = s.regs := by
  obtain ⟨_, _, e, _⟩ := beginCycle_eq s; rw [e]
@[simp] theorem beginCycle_out (s : State) : (beginCycle s).out = s.out := by obtain ⟨_, _, e, _⟩ := beginCycle_eq s; rw [e]
@[simp] theorem beginCycle_halted (s : State) : (beginCycle s).cpu.halted = s.cpu.halted := by
  obtain ⟨_, _, e, _⟩ := beginCycle_eq s; rw [e]
@[simp] theorem beginCycle_haltBug (s : State) : (beginCycle s).cpu.haltBug = s.cpu.haltBug := by
  obtain ⟨_, _, e, _⟩ := beginCycle_eq s; rw [e]
@[simp] theorem beginCycle_instrAddr (s : State) : (beginCycle s).cpu.instrAddr = s.regs.pc := by
  obtain ⟨_, _, e, _⟩ := beginCycle_eq s; rw [e]

/-- The wake clears `halted` or nothing (45_system.md R197). -/
theorem State.woken_cases (s : State) : s.woken = s ∨ (s.cpu.halted = true ∧ s.pending ≠ 0 ∧ s.woken = { s with cpu.halted := false }) := by
  unfold State.woken
  by_cases h : s.cpu.halted = true ∧ s.pending ≠ 0
  · rw [if_pos h]; exact .inr ⟨h.1, h.2, rfl⟩
  · rw [if_neg h]; exact .inl rfl

/-- The lengths of an instruction (30_encoding.md R74). -/
theorem instrLength_cases (b : Byte) : instrLength b = 1 ∨ instrLength b = 2 ∨ instrLength b = 3 := by
  revert b; decide +kernel

theorem decode_of_length_one {b0 : Byte} (h : instrLength b0 = 1) (rest : List Byte) : decode (b0 :: rest) = .ok (decode3 b0 0 0, rest) := by
  simp only [decode, h]

theorem decode_of_length_two {b0 b1 : Byte} (h : instrLength b0 = 2) (rest : List Byte) :
    decode (b0 :: b1 :: rest) = .ok (decode3 b0 b1 0, rest) := by
  simp only [decode, h]

theorem decode_of_length_three {b0 b1 b2 : Byte} (h : instrLength b0 = 3) (rest : List Byte) :
    decode (b0 :: b1 :: b2 :: rest) = .ok (decode3 b0 b1 b2, rest) := by
  simp only [decode, h]

/-- The record of a cycle on the state after its fetches, whose control state and outputs are those before them. -/
theorem recorded_eq {v u : State} (hc : u.cpu = v.cpu) (ho : u.out = v.out) (op : OpcodeId) (tr : List TraceRecord) :
    { u with cpu := { v.cpu with opcode := op }, out := { v.out with trace := tr } } = { u with cpu.opcode := op, out.trace := tr } := by
  rw [← hc, ← ho]

/-- The effect of the fetched instruction, with `b0` the opcode byte and `v` the state after it is read: it is the instruction that the bytes decode to, run past its
bytes (past no further byte of STOP), with the trace record of the moment after the opcode (R71 to R75). -/
theorem exec_fetchOperands (b0 : Byte) (v : State) (i : Instr) (rest : List Byte)
    (hd : decode [b0, v.fetchVal, v.afterFetch.fetchVal] = .ok (i, rest)) :
    let b1 := v.fetchVal
    let op : OpcodeId := if b0 = 0xCB then .cb b1 else .byte b0
    let fetched := if b0 = 0x10 then 0 else instrLength b0 - 1
    let published := if b0 = 0xCB then v.afterFetch else v
    let f := State.afterFetch^[fetched] v
    let r := fetchOperands op (publishTrace op published)
    exec r.1 r.2 =
      exec i
        { f with
          cpu.opcode := op
          out.trace := { instrAddr := v.cpu.instrAddr, opcode := op, regs := published.regs, halted := v.cpu.halted, ime := v.cpu.ime } :: v.out.trace } := by
  dsimp only
  have c1 := v.afterFetch_cpu
  have o1 := v.afterFetch_out
  have c2 := v.afterFetch.afterFetch_cpu
  have o2 := v.afterFetch.afterFetch_out
  have hf : ∀ (t : State) (c : Cpu) (o : Outputs), State.fetchVal { t with cpu := c, out := o } = t.fetchVal := fun _ _ _ => rfl
  by_cases hcb : b0 = 0xCB
  · subst hcb
    have hdec : decode [0xCB, v.fetchVal, v.afterFetch.fetchVal] = .ok (decodeCb v.fetchVal, [v.afterFetch.fetchVal]) := rfl
    rw [hdec] at hd
    cases hd
    have e := recorded_eq c1 o1 (.cb v.fetchVal)
      ({ instrAddr := v.cpu.instrAddr, opcode := .cb v.fetchVal, regs := v.afterFetch.regs, halted := v.cpu.halted, ime := v.cpu.ime } :: v.out.trace)
    refine Eq.trans ?_ (congrArg (exec (decodeCb v.fetchVal)) e)
    show exec (decodeCb v.fetchVal) (publishTrace (.cb v.fetchVal) v.afterFetch) = _
    unfold publishTrace
    rw [c1, o1]
  · rw [if_neg hcb, if_neg hcb]
    by_cases h10 : b0 = 0x10
    · subst h10
      have hs : ∃ n, i = .stop n := by
        have : decode [(0x10 : Byte), v.fetchVal, v.afterFetch.fetchVal] = .ok (.stop v.fetchVal, [v.afterFetch.fetchVal]) := rfl
        rw [this] at hd; cases hd; exact ⟨_, rfl⟩
      obtain ⟨n, rfl⟩ := hs
      rfl
    · rw [if_neg h10]
      have hoc : operandCount b0 = instrLength b0 - 1 := by
        unfold operandCount; rw [if_neg]; rintro (h | h); exacts [h10 h, hcb h]
      unfold fetchOperands
      dsimp only
      rw [hoc]
      rcases instrLength_cases b0 with h | h | h
      · rw [decode_of_length_one h] at hd; rw [h]; cases hd; rfl
      · rw [decode_of_length_two h] at hd; rw [h]; cases hd
        refine Eq.trans ?_ (congrArg (exec _) (recorded_eq c1 o1 _ _))
        exact congrArg (exec _) (v.afterFetch_with _ _)
      · rw [decode_of_length_three h] at hd; rw [h]; cases hd
        refine Eq.trans ?_ (congrArg (exec _) (recorded_eq (c2.trans c1) (o2.trans o1) _ _))
        show exec (decode3 b0 v.fetchVal (State.fetchVal (State.afterFetch { v with cpu := _, out := _ })))
            (State.afterFetch (State.afterFetch { v with cpu := _, out := _ })) = _
        rw [v.afterFetch_with, hf v.afterFetch, v.afterFetch.afterFetch_with]

end Sys2Proof.Machine
end

