-- ==== Sys2Proof/Laws/PerInstr.lean ====
section
/-! SUPPORT. Statements for all instructions, made constructor by constructor. -/

namespace Sys2Proof.Laws.EncodeLength

/-- The encoding of a whole instruction has as many bytes as its first byte says (30_encoding.md R74); a pseudo-opcode has none (R72). -/
def Statement (i : Instr) : Prop :=
  (i.wellFormed = true → (encode i).head?.map instrLength = some (encode i).length) ∧ (i.isPseudo = true → encode i = [])

theorem ldBcN16 (w : Word) : Statement (.ldBcN16 w) := ⟨fun _ => rfl, fun h => absurd h Bool.false_ne_true⟩
theorem ldBN8 (n : Byte) : Statement (.ldBN8 n) := ⟨fun _ => rfl, fun h => absurd h Bool.false_ne_true⟩
theorem ldAtA16Sp (w : Word) : Statement (.ldAtA16Sp w) := ⟨fun _ => rfl, fun h => absurd h Bool.false_ne_true⟩
theorem ldCN8 (n : Byte) : Statement (.ldCN8 n) := ⟨fun _ => rfl, fun h => absurd h Bool.false_ne_true⟩
theorem stop (n : Byte) : Statement (.stop n) := ⟨fun _ => rfl, fun h => absurd h Bool.false_ne_true⟩
theorem ldDeN16 (w : Word) : Statement (.ldDeN16 w) := ⟨fun _ => rfl, fun h => absurd h Bool.false_ne_true⟩
theorem ldDN8 (n : Byte) : Statement (.ldDN8 n) := ⟨fun _ => rfl, fun h => absurd h Bool.false_ne_true⟩
theorem jrE8 (e : Byte) : Statement (.jrE8 e) := ⟨fun _ => rfl, fun h => absurd h Bool.false_ne_true⟩
theorem ldEN8 (n : Byte) : Statement (.ldEN8 n) := ⟨fun _ => rfl, fun h => absurd h Bool.false_ne_true⟩
theorem jrNzE8 (e : Byte) : Statement (.jrNzE8 e) := ⟨fun _ => rfl, fun h => absurd h Bool.false_ne_true⟩
theorem ldHlN16 (w : Word) : Statement (.ldHlN16 w) := ⟨fun _ => rfl, fun h => absurd h Bool.false_ne_true⟩
theorem ldHN8 (n : Byte) : Statement (.ldHN8 n) := ⟨fun _ => rfl, fun h => absurd h Bool.false_ne_true⟩
theorem jrZE8 (e : Byte) : Statement (.jrZE8 e) := ⟨fun _ => rfl, fun h => absurd h Bool.false_ne_true⟩
theorem ldLN8 (n : Byte) : Statement (.ldLN8 n) := ⟨fun _ => rfl, fun h => absurd h Bool.false_ne_true⟩
theorem jrNcE8 (e : Byte) : Statement (.jrNcE8 e) := ⟨fun _ => rfl, fun h => absurd h Bool.false_ne_true⟩
theorem ldSpN16 (w : Word) : Statement (.ldSpN16 w) := ⟨fun _ => rfl, fun h => absurd h Bool.false_ne_true⟩
theorem ldAtHlN8 (n : Byte) : Statement (.ldAtHlN8 n) := ⟨fun _ => rfl, fun h => absurd h Bool.false_ne_true⟩
theorem jrCE8 (e : Byte) : Statement (.jrCE8 e) := ⟨fun _ => rfl, fun h => absurd h Bool.false_ne_true⟩
theorem ldAN8 (n : Byte) : Statement (.ldAN8 n) := ⟨fun _ => rfl, fun h => absurd h Bool.false_ne_true⟩
theorem jpNzA16 (w : Word) : Statement (.jpNzA16 w) := ⟨fun _ => rfl, fun h => absurd h Bool.false_ne_true⟩
theorem jpA16 (w : Word) : Statement (.jpA16 w) := ⟨fun _ => rfl, fun h => absurd h Bool.false_ne_true⟩
theorem callNzA16 (w : Word) : Statement (.callNzA16 w) := ⟨fun _ => rfl, fun h => absurd h Bool.false_ne_true⟩
theorem addAN8 (n : Byte) : Statement (.addAN8 n) := ⟨fun _ => rfl, fun h => absurd h Bool.false_ne_true⟩
theorem jpZA16 (w : Word) : Statement (.jpZA16 w) := ⟨fun _ => rfl, fun h => absurd h Bool.false_ne_true⟩
theorem callZA16 (w : Word) : Statement (.callZA16 w) := ⟨fun _ => rfl, fun h => absurd h Bool.false_ne_true⟩
theorem callA16 (w : Word) : Statement (.callA16 w) := ⟨fun _ => rfl, fun h => absurd h Bool.false_ne_true⟩
theorem adcAN8 (n : Byte) : Statement (.adcAN8 n) := ⟨fun _ => rfl, fun h => absurd h Bool.false_ne_true⟩
theorem jpNcA16 (w : Word) : Statement (.jpNcA16 w) := ⟨fun _ => rfl, fun h => absurd h Bool.false_ne_true⟩
theorem callNcA16 (w : Word) : Statement (.callNcA16 w) := ⟨fun _ => rfl, fun h => absurd h Bool.false_ne_true⟩
theorem subAN8 (n : Byte) : Statement (.subAN8 n) := ⟨fun _ => rfl, fun h => absurd h Bool.false_ne_true⟩
theorem jpCA16 (w : Word) : Statement (.jpCA16 w) := ⟨fun _ => rfl, fun h => absurd h Bool.false_ne_true⟩
theorem callCA16 (w : Word) : Statement (.callCA16 w) := ⟨fun _ => rfl, fun h => absurd h Bool.false_ne_true⟩
theorem sbcAN8 (n : Byte) : Statement (.sbcAN8 n) := ⟨fun _ => rfl, fun h => absurd h Bool.false_ne_true⟩
theorem ldhAtA8A (o : Byte) : Statement (.ldhAtA8A o) := ⟨fun _ => rfl, fun h => absurd h Bool.false_ne_true⟩
theorem andAN8 (n : Byte) : Statement (.andAN8 n) := ⟨fun _ => rfl, fun h => absurd h Bool.false_ne_true⟩
theorem addSpE8 (e : Byte) : Statement (.addSpE8 e) := ⟨fun _ => rfl, fun h => absurd h Bool.false_ne_true⟩
theorem ldAtA16A (w : Word) : Statement (.ldAtA16A w) := ⟨fun _ => rfl, fun h => absurd h Bool.false_ne_true⟩
theorem xorAN8 (n : Byte) : Statement (.xorAN8 n) := ⟨fun _ => rfl, fun h => absurd h Bool.false_ne_true⟩
theorem ldhAAtA8 (o : Byte) : Statement (.ldhAAtA8 o) := ⟨fun _ => rfl, fun h => absurd h Bool.false_ne_true⟩
theorem orAN8 (n : Byte) : Statement (.orAN8 n) := ⟨fun _ => rfl, fun h => absurd h Bool.false_ne_true⟩
theorem ldHlSpE8 (e : Byte) : Statement (.ldHlSpE8 e) := ⟨fun _ => rfl, fun h => absurd h Bool.false_ne_true⟩
theorem ldAAtA16 (w : Word) : Statement (.ldAAtA16 w) := ⟨fun _ => rfl, fun h => absurd h Bool.false_ne_true⟩
theorem cpAN8 (n : Byte) : Statement (.cpAN8 n) := ⟨fun _ => rfl, fun h => absurd h Bool.false_ne_true⟩
theorem rlcR (r : Reg8) : Statement (.rlcR r) := ⟨fun _ => rfl, fun h => absurd h Bool.false_ne_true⟩
theorem rrcR (r : Reg8) : Statement (.rrcR r) := ⟨fun _ => rfl, fun h => absurd h Bool.false_ne_true⟩
theorem rlR (r : Reg8) : Statement (.rlR r) := ⟨fun _ => rfl, fun h => absurd h Bool.false_ne_true⟩
theorem rrR (r : Reg8) : Statement (.rrR r) := ⟨fun _ => rfl, fun h => absurd h Bool.false_ne_true⟩
theorem slaR (r : Reg8) : Statement (.slaR r) := ⟨fun _ => rfl, fun h => absurd h Bool.false_ne_true⟩
theorem sraR (r : Reg8) : Statement (.sraR r) := ⟨fun _ => rfl, fun h => absurd h Bool.false_ne_true⟩
theorem swapR (r : Reg8) : Statement (.swapR r) := ⟨fun _ => rfl, fun h => absurd h Bool.false_ne_true⟩
theorem srlR (r : Reg8) : Statement (.srlR r) := ⟨fun _ => rfl, fun h => absurd h Bool.false_ne_true⟩
theorem bitBR (b : Fin 8) (r : Reg8) : Statement (.bitBR b r) := ⟨fun _ => rfl, fun h => absurd h Bool.false_ne_true⟩
theorem bitBAtHl (b : Fin 8) : Statement (.bitBAtHl b) := ⟨fun _ => rfl, fun h => absurd h Bool.false_ne_true⟩
theorem resBR (b : Fin 8) (r : Reg8) : Statement (.resBR b r) := ⟨fun _ => rfl, fun h => absurd h Bool.false_ne_true⟩
theorem resBAtHl (b : Fin 8) : Statement (.resBAtHl b) := ⟨fun _ => rfl, fun h => absurd h Bool.false_ne_true⟩
theorem setBR (b : Fin 8) (r : Reg8) : Statement (.setBR b r) := ⟨fun _ => rfl, fun h => absurd h Bool.false_ne_true⟩
theorem setBAtHl (b : Fin 8) : Statement (.setBAtHl b) := ⟨fun _ => rfl, fun h => absurd h Bool.false_ne_true⟩
theorem interrupt (k : IrqSource) : Statement (.interrupt k) := ⟨fun h => absurd h Bool.false_ne_true, fun _ => rfl⟩
theorem nop : Statement .nop := ⟨fun _ => rfl, fun h => absurd h Bool.false_ne_true⟩
theorem ldAtBcA : Statement .ldAtBcA := ⟨fun _ => rfl, fun h => absurd h Bool.false_ne_true⟩
theorem incBc : Statement .incBc := ⟨fun _ => rfl, fun h => absurd h Bool.false_ne_true⟩
theorem incB : Statement .incB := ⟨fun _ => rfl, fun h => absurd h Bool.false_ne_true⟩
theorem decB : Statement .decB := ⟨fun _ => rfl, fun h => absurd h Bool.false_ne_true⟩
theorem rlca : Statement .rlca := ⟨fun _ => rfl, fun h => absurd h Bool.false_ne_true⟩
theorem addHlBc : Statement .addHlBc := ⟨fun _ => rfl, fun h => absurd h Bool.false_ne_true⟩
theorem ldAAtBc : Statement .ldAAtBc := ⟨fun _ => rfl, fun h => absurd h Bool.false_ne_true⟩
theorem decBc : Statement .decBc := ⟨fun _ => rfl, fun h => absurd h Bool.false_ne_true⟩
theorem incC : Statement .incC := ⟨fun _ => rfl, fun h => absurd h Bool.false_ne_true⟩
theorem decC : Statement .decC := ⟨fun _ => rfl, fun h => absurd h Bool.false_ne_true⟩
theorem rrca : Statement .rrca := ⟨fun _ => rfl, fun h => absurd h Bool.false_ne_true⟩
theorem ldAtDeA : Statement .ldAtDeA := ⟨fun _ => rfl, fun h => absurd h Bool.false_ne_true⟩
theorem incDe : Statement .incDe := ⟨fun _ => rfl, fun h => absurd h Bool.false_ne_true⟩
theorem incD : Statement .incD := ⟨fun _ => rfl, fun h => absurd h Bool.false_ne_true⟩
theorem decD : Statement .decD := ⟨fun _ => rfl, fun h => absurd h Bool.false_ne_true⟩
theorem rla : Statement .rla := ⟨fun _ => rfl, fun h => absurd h Bool.false_ne_true⟩
theorem addHlDe : Statement .addHlDe := ⟨fun _ => rfl, fun h => absurd h Bool.false_ne_true⟩
theorem ldAAtDe : Statement .ldAAtDe := ⟨fun _ => rfl, fun h => absurd h Bool.false_ne_true⟩
theorem decDe : Statement .decDe := ⟨fun _ => rfl, fun h => absurd h Bool.false_ne_true⟩
theorem incE : Statement .incE := ⟨fun _ => rfl, fun h => absurd h Bool.false_ne_true⟩
theorem decE : Statement .decE := ⟨fun _ => rfl, fun h => absurd h Bool.false_ne_true⟩
theorem rra : Statement .rra := ⟨fun _ => rfl, fun h => absurd h Bool.false_ne_true⟩
theorem ldAtHlIncA : Statement .ldAtHlIncA := ⟨fun _ => rfl, fun h => absurd h Bool.false_ne_true⟩
theorem incHl : Statement .incHl := ⟨fun _ => rfl, fun h => absurd h Bool.false_ne_true⟩
theorem incH : Statement .incH := ⟨fun _ => rfl, fun h => absurd h Bool.false_ne_true⟩
theorem decH : Statement .decH := ⟨fun _ => rfl, fun h => absurd h Bool.false_ne_true⟩
theorem daa : Statement .daa := ⟨fun _ => rfl, fun h => absurd h Bool.false_ne_true⟩
theorem addHlHl : Statement .addHlHl := ⟨fun _ => rfl, fun h => absurd h Bool.false_ne_true⟩
theorem ldAAtHlInc : Statement .ldAAtHlInc := ⟨fun _ => rfl, fun h => absurd h Bool.false_ne_true⟩
theorem decHl : Statement .decHl := ⟨fun _ => rfl, fun h => absurd h Bool.false_ne_true⟩
theorem incL : Statement .incL := ⟨fun _ => rfl, fun h => absurd h Bool.false_ne_true⟩
theorem decL : Statement .decL := ⟨fun _ => rfl, fun h => absurd h Bool.false_ne_true⟩
theorem cpl : Statement .cpl := ⟨fun _ => rfl, fun h => absurd h Bool.false_ne_true⟩
theorem ldAtHlDecA : Statement .ldAtHlDecA := ⟨fun _ => rfl, fun h => absurd h Bool.false_ne_true⟩
theorem incSp : Statement .incSp := ⟨fun _ => rfl, fun h => absurd h Bool.false_ne_true⟩
theorem incAtHl : Statement .incAtHl := ⟨fun _ => rfl, fun h => absurd h Bool.false_ne_true⟩
theorem decAtHl : Statement .decAtHl := ⟨fun _ => rfl, fun h => absurd h Bool.false_ne_true⟩
theorem scf : Statement .scf := ⟨fun _ => rfl, fun h => absurd h Bool.false_ne_true⟩
theorem addHlSp : Statement .addHlSp := ⟨fun _ => rfl, fun h => absurd h Bool.false_ne_true⟩
theorem ldAAtHlDec : Statement .ldAAtHlDec := ⟨fun _ => rfl, fun h => absurd h Bool.false_ne_true⟩
theorem decSp : Statement .decSp := ⟨fun _ => rfl, fun h => absurd h Bool.false_ne_true⟩
theorem incA : Statement .incA := ⟨fun _ => rfl, fun h => absurd h Bool.false_ne_true⟩
theorem decA : Statement .decA := ⟨fun _ => rfl, fun h => absurd h Bool.false_ne_true⟩
theorem ccf : Statement .ccf := ⟨fun _ => rfl, fun h => absurd h Bool.false_ne_true⟩
theorem ldBB : Statement .ldBB := ⟨fun _ => rfl, fun h => absurd h Bool.false_ne_true⟩
theorem ldBC : Statement .ldBC := ⟨fun _ => rfl, fun h => absurd h Bool.false_ne_true⟩
theorem ldBD : Statement .ldBD := ⟨fun _ => rfl, fun h => absurd h Bool.false_ne_true⟩
theorem ldBE : Statement .ldBE := ⟨fun _ => rfl, fun h => absurd h Bool.false_ne_true⟩
theorem ldBH : Statement .ldBH := ⟨fun _ => rfl, fun h => absurd h Bool.false_ne_true⟩
theorem ldBL : Statement .ldBL := ⟨fun _ => rfl, fun h => absurd h Bool.false_ne_true⟩
theorem ldBAtHl : Statement .ldBAtHl := ⟨fun _ => rfl, fun h => absurd h Bool.false_ne_true⟩
theorem ldBA : Statement .ldBA := ⟨fun _ => rfl, fun h => absurd h Bool.false_ne_true⟩
theorem ldCB : Statement .ldCB := ⟨fun _ => rfl, fun h => absurd h Bool.false_ne_true⟩
theorem ldCC : Statement .ldCC := ⟨fun _ => rfl, fun h => absurd h Bool.false_ne_true⟩
theorem ldCD : Statement .ldCD := ⟨fun _ => rfl, fun h => absurd h Bool.false_ne_true⟩
theorem ldCE : Statement .ldCE := ⟨fun _ => rfl, fun h => absurd h Bool.false_ne_true⟩
theorem ldCH : Statement .ldCH := ⟨fun _ => rfl, fun h => absurd h Bool.false_ne_true⟩
theorem ldCL : Statement .ldCL := ⟨fun _ => rfl, fun h => absurd h Bool.false_ne_true⟩
theorem ldCAtHl : Statement .ldCAtHl := ⟨fun _ => rfl, fun h => absurd h Bool.false_ne_true⟩
theorem ldCA : Statement .ldCA := ⟨fun _ => rfl, fun h => absurd h Bool.false_ne_true⟩
theorem ldDB : Statement .ldDB := ⟨fun _ => rfl, fun h => absurd h Bool.false_ne_true⟩
theorem ldDC : Statement .ldDC := ⟨fun _ => rfl, fun h => absurd h Bool.false_ne_true⟩
theorem ldDD : Statement .ldDD := ⟨fun _ => rfl, fun h => absurd h Bool.false_ne_true⟩
theorem ldDE : Statement .ldDE := ⟨fun _ => rfl, fun h => absurd h Bool.false_ne_true⟩
theorem ldDH : Statement .ldDH := ⟨fun _ => rfl, fun h => absurd h Bool.false_ne_true⟩
theorem ldDL : Statement .ldDL := ⟨fun _ => rfl, fun h => absurd h Bool.false_ne_true⟩
theorem ldDAtHl : Statement .ldDAtHl := ⟨fun _ => rfl, fun h => absurd h Bool.false_ne_true⟩
theorem ldDA : Statement .ldDA := ⟨fun _ => rfl, fun h => absurd h Bool.false_ne_true⟩
theorem ldEB : Statement .ldEB := ⟨fun _ => rfl, fun h => absurd h Bool.false_ne_true⟩
theorem ldEC : Statement .ldEC := ⟨fun _ => rfl, fun h => absurd h Bool.false_ne_true⟩
theorem ldED : Statement .ldED := ⟨fun _ => rfl, fun h => absurd h Bool.false_ne_true⟩
theorem ldEE : Statement .ldEE := ⟨fun _ => rfl, fun h => absurd h Bool.false_ne_true⟩
theorem ldEH : Statement .ldEH := ⟨fun _ => rfl, fun h => absurd h Bool.false_ne_true⟩
theorem ldEL : Statement .ldEL := ⟨fun _ => rfl, fun h => absurd h Bool.false_ne_true⟩
theorem ldEAtHl : Statement .ldEAtHl := ⟨fun _ => rfl, fun h => absurd h Bool.false_ne_true⟩
theorem ldEA : Statement .ldEA := ⟨fun _ => rfl, fun h => absurd h Bool.false_ne_true⟩
theorem ldHB : Statement .ldHB := ⟨fun _ => rfl, fun h => absurd h Bool.false_ne_true⟩
theorem ldHC : Statement .ldHC := ⟨fun _ => rfl, fun h => absurd h Bool.false_ne_true⟩
theorem ldHD : Statement .ldHD := ⟨fun _ => rfl, fun h => absurd h Bool.false_ne_true⟩
theorem ldHE : Statement .ldHE := ⟨fun _ => rfl, fun h => absurd h Bool.false_ne_true⟩
theorem ldHH : Statement .ldHH := ⟨fun _ => rfl, fun h => absurd h Bool.false_ne_true⟩
theorem ldHL : Statement .ldHL := ⟨fun _ => rfl, fun h => absurd h Bool.false_ne_true⟩
theorem ldHAtHl : Statement .ldHAtHl := ⟨fun _ => rfl, fun h => absurd h Bool.false_ne_true⟩
theorem ldHA : Statement .ldHA := ⟨fun _ => rfl, fun h => absurd h Bool.false_ne_true⟩
theorem ldLB : Statement .ldLB := ⟨fun _ => rfl, fun h => absurd h Bool.false_ne_true⟩
theorem ldLC : Statement .ldLC := ⟨fun _ => rfl, fun h => absurd h Bool.false_ne_true⟩
theorem ldLD : Statement .ldLD := ⟨fun _ => rfl, fun h => absurd h Bool.false_ne_true⟩
theorem ldLE : Statement .ldLE := ⟨fun _ => rfl, fun h => absurd h Bool.false_ne_true⟩
theorem ldLH : Statement .ldLH := ⟨fun _ => rfl, fun h => absurd h Bool.false_ne_true⟩
theorem ldLL : Statement .ldLL := ⟨fun _ => rfl, fun h => absurd h Bool.false_ne_true⟩
theorem ldLAtHl : Statement .ldLAtHl := ⟨fun _ => rfl, fun h => absurd h Bool.false_ne_true⟩
theorem ldLA : Statement .ldLA := ⟨fun _ => rfl, fun h => absurd h Bool.false_ne_true⟩
theorem ldAtHlB : Statement .ldAtHlB := ⟨fun _ => rfl, fun h => absurd h Bool.false_ne_true⟩
theorem ldAtHlC : Statement .ldAtHlC := ⟨fun _ => rfl, fun h => absurd h Bool.false_ne_true⟩
theorem ldAtHlD : Statement .ldAtHlD := ⟨fun _ => rfl, fun h => absurd h Bool.false_ne_true⟩
theorem ldAtHlE : Statement .ldAtHlE := ⟨fun _ => rfl, fun h => absurd h Bool.false_ne_true⟩
theorem ldAtHlH : Statement .ldAtHlH := ⟨fun _ => rfl, fun h => absurd h Bool.false_ne_true⟩
theorem ldAtHlL : Statement .ldAtHlL := ⟨fun _ => rfl, fun h => absurd h Bool.false_ne_true⟩
theorem halt : Statement .halt := ⟨fun _ => rfl, fun h => absurd h Bool.false_ne_true⟩
theorem ldAtHlA : Statement .ldAtHlA := ⟨fun _ => rfl, fun h => absurd h Bool.false_ne_true⟩
theorem ldAB : Statement .ldAB := ⟨fun _ => rfl, fun h => absurd h Bool.false_ne_true⟩
theorem ldAC : Statement .ldAC := ⟨fun _ => rfl, fun h => absurd h Bool.false_ne_true⟩
theorem ldAD : Statement .ldAD := ⟨fun _ => rfl, fun h => absurd h Bool.false_ne_true⟩
theorem ldAE : Statement .ldAE := ⟨fun _ => rfl, fun h => absurd h Bool.false_ne_true⟩
theorem ldAH : Statement .ldAH := ⟨fun _ => rfl, fun h => absurd h Bool.false_ne_true⟩
theorem ldAL : Statement .ldAL := ⟨fun _ => rfl, fun h => absurd h Bool.false_ne_true⟩
theorem ldAAtHl : Statement .ldAAtHl := ⟨fun _ => rfl, fun h => absurd h Bool.false_ne_true⟩
theorem ldAA : Statement .ldAA := ⟨fun _ => rfl, fun h => absurd h Bool.false_ne_true⟩
theorem addAB : Statement .addAB := ⟨fun _ => rfl, fun h => absurd h Bool.false_ne_true⟩
theorem addAC : Statement .addAC := ⟨fun _ => rfl, fun h => absurd h Bool.false_ne_true⟩
theorem addAD : Statement .addAD := ⟨fun _ => rfl, fun h => absurd h Bool.false_ne_true⟩
theorem addAE : Statement .addAE := ⟨fun _ => rfl, fun h => absurd h Bool.false_ne_true⟩
theorem addAH : Statement .addAH := ⟨fun _ => rfl, fun h => absurd h Bool.false_ne_true⟩
theorem addAL : Statement .addAL := ⟨fun _ => rfl, fun h => absurd h Bool.false_ne_true⟩
theorem addAAtHl : Statement .addAAtHl := ⟨fun _ => rfl, fun h => absurd h Bool.false_ne_true⟩
theorem addAA : Statement .addAA := ⟨fun _ => rfl, fun h => absurd h Bool.false_ne_true⟩
theorem adcAB : Statement .adcAB := ⟨fun _ => rfl, fun h => absurd h Bool.false_ne_true⟩
theorem adcAC : Statement .adcAC := ⟨fun _ => rfl, fun h => absurd h Bool.false_ne_true⟩
theorem adcAD : Statement .adcAD := ⟨fun _ => rfl, fun h => absurd h Bool.false_ne_true⟩
theorem adcAE : Statement .adcAE := ⟨fun _ => rfl, fun h => absurd h Bool.false_ne_true⟩
theorem adcAH : Statement .adcAH := ⟨fun _ => rfl, fun h => absurd h Bool.false_ne_true⟩
theorem adcAL : Statement .adcAL := ⟨fun _ => rfl, fun h => absurd h Bool.false_ne_true⟩
theorem adcAAtHl : Statement .adcAAtHl := ⟨fun _ => rfl, fun h => absurd h Bool.false_ne_true⟩
theorem adcAA : Statement .adcAA := ⟨fun _ => rfl, fun h => absurd h Bool.false_ne_true⟩
theorem subAB : Statement .subAB := ⟨fun _ => rfl, fun h => absurd h Bool.false_ne_true⟩
theorem subAC : Statement .subAC := ⟨fun _ => rfl, fun h => absurd h Bool.false_ne_true⟩
theorem subAD : Statement .subAD := ⟨fun _ => rfl, fun h => absurd h Bool.false_ne_true⟩
theorem subAE : Statement .subAE := ⟨fun _ => rfl, fun h => absurd h Bool.false_ne_true⟩
theorem subAH : Statement .subAH := ⟨fun _ => rfl, fun h => absurd h Bool.false_ne_true⟩
theorem subAL : Statement .subAL := ⟨fun _ => rfl, fun h => absurd h Bool.false_ne_true⟩
theorem subAAtHl : Statement .subAAtHl := ⟨fun _ => rfl, fun h => absurd h Bool.false_ne_true⟩
theorem subAA : Statement .subAA := ⟨fun _ => rfl, fun h => absurd h Bool.false_ne_true⟩
theorem sbcAB : Statement .sbcAB := ⟨fun _ => rfl, fun h => absurd h Bool.false_ne_true⟩
theorem sbcAC : Statement .sbcAC := ⟨fun _ => rfl, fun h => absurd h Bool.false_ne_true⟩
theorem sbcAD : Statement .sbcAD := ⟨fun _ => rfl, fun h => absurd h Bool.false_ne_true⟩
theorem sbcAE : Statement .sbcAE := ⟨fun _ => rfl, fun h => absurd h Bool.false_ne_true⟩
theorem sbcAH : Statement .sbcAH := ⟨fun _ => rfl, fun h => absurd h Bool.false_ne_true⟩
theorem sbcAL : Statement .sbcAL := ⟨fun _ => rfl, fun h => absurd h Bool.false_ne_true⟩
theorem sbcAAtHl : Statement .sbcAAtHl := ⟨fun _ => rfl, fun h => absurd h Bool.false_ne_true⟩
theorem sbcAA : Statement .sbcAA := ⟨fun _ => rfl, fun h => absurd h Bool.false_ne_true⟩
theorem andAB : Statement .andAB := ⟨fun _ => rfl, fun h => absurd h Bool.false_ne_true⟩
theorem andAC : Statement .andAC := ⟨fun _ => rfl, fun h => absurd h Bool.false_ne_true⟩
theorem andAD : Statement .andAD := ⟨fun _ => rfl, fun h => absurd h Bool.false_ne_true⟩
theorem andAE : Statement .andAE := ⟨fun _ => rfl, fun h => absurd h Bool.false_ne_true⟩
theorem andAH : Statement .andAH := ⟨fun _ => rfl, fun h => absurd h Bool.false_ne_true⟩
theorem andAL : Statement .andAL := ⟨fun _ => rfl, fun h => absurd h Bool.false_ne_true⟩
theorem andAAtHl : Statement .andAAtHl := ⟨fun _ => rfl, fun h => absurd h Bool.false_ne_true⟩
theorem andAA : Statement .andAA := ⟨fun _ => rfl, fun h => absurd h Bool.false_ne_true⟩
theorem xorAB : Statement .xorAB := ⟨fun _ => rfl, fun h => absurd h Bool.false_ne_true⟩
theorem xorAC : Statement .xorAC := ⟨fun _ => rfl, fun h => absurd h Bool.false_ne_true⟩
theorem xorAD : Statement .xorAD := ⟨fun _ => rfl, fun h => absurd h Bool.false_ne_true⟩
theorem xorAE : Statement .xorAE := ⟨fun _ => rfl, fun h => absurd h Bool.false_ne_true⟩
theorem xorAH : Statement .xorAH := ⟨fun _ => rfl, fun h => absurd h Bool.false_ne_true⟩
theorem xorAL : Statement .xorAL := ⟨fun _ => rfl, fun h => absurd h Bool.false_ne_true⟩
theorem xorAAtHl : Statement .xorAAtHl := ⟨fun _ => rfl, fun h => absurd h Bool.false_ne_true⟩
theorem xorAA : Statement .xorAA := ⟨fun _ => rfl, fun h => absurd h Bool.false_ne_true⟩
theorem orAB : Statement .orAB := ⟨fun _ => rfl, fun h => absurd h Bool.false_ne_true⟩
theorem orAC : Statement .orAC := ⟨fun _ => rfl, fun h => absurd h Bool.false_ne_true⟩
theorem orAD : Statement .orAD := ⟨fun _ => rfl, fun h => absurd h Bool.false_ne_true⟩
theorem orAE : Statement .orAE := ⟨fun _ => rfl, fun h => absurd h Bool.false_ne_true⟩
theorem orAH : Statement .orAH := ⟨fun _ => rfl, fun h => absurd h Bool.false_ne_true⟩
theorem orAL : Statement .orAL := ⟨fun _ => rfl, fun h => absurd h Bool.false_ne_true⟩
theorem orAAtHl : Statement .orAAtHl := ⟨fun _ => rfl, fun h => absurd h Bool.false_ne_true⟩
theorem orAA : Statement .orAA := ⟨fun _ => rfl, fun h => absurd h Bool.false_ne_true⟩
theorem cpAB : Statement .cpAB := ⟨fun _ => rfl, fun h => absurd h Bool.false_ne_true⟩
theorem cpAC : Statement .cpAC := ⟨fun _ => rfl, fun h => absurd h Bool.false_ne_true⟩
theorem cpAD : Statement .cpAD := ⟨fun _ => rfl, fun h => absurd h Bool.false_ne_true⟩
theorem cpAE : Statement .cpAE := ⟨fun _ => rfl, fun h => absurd h Bool.false_ne_true⟩
theorem cpAH : Statement .cpAH := ⟨fun _ => rfl, fun h => absurd h Bool.false_ne_true⟩
theorem cpAL : Statement .cpAL := ⟨fun _ => rfl, fun h => absurd h Bool.false_ne_true⟩
theorem cpAAtHl : Statement .cpAAtHl := ⟨fun _ => rfl, fun h => absurd h Bool.false_ne_true⟩
theorem cpAA : Statement .cpAA := ⟨fun _ => rfl, fun h => absurd h Bool.false_ne_true⟩
theorem retNz : Statement .retNz := ⟨fun _ => rfl, fun h => absurd h Bool.false_ne_true⟩
theorem popBc : Statement .popBc := ⟨fun _ => rfl, fun h => absurd h Bool.false_ne_true⟩
theorem pushBc : Statement .pushBc := ⟨fun _ => rfl, fun h => absurd h Bool.false_ne_true⟩
theorem rst00 : Statement .rst00 := ⟨fun _ => rfl, fun h => absurd h Bool.false_ne_true⟩
theorem retZ : Statement .retZ := ⟨fun _ => rfl, fun h => absurd h Bool.false_ne_true⟩
theorem ret : Statement .ret := ⟨fun _ => rfl, fun h => absurd h Bool.false_ne_true⟩
theorem rst08 : Statement .rst08 := ⟨fun _ => rfl, fun h => absurd h Bool.false_ne_true⟩
theorem retNc : Statement .retNc := ⟨fun _ => rfl, fun h => absurd h Bool.false_ne_true⟩
theorem popDe : Statement .popDe := ⟨fun _ => rfl, fun h => absurd h Bool.false_ne_true⟩
theorem illegalD3 : Statement .illegalD3 := ⟨fun _ => rfl, fun h => absurd h Bool.false_ne_true⟩
theorem pushDe : Statement .pushDe := ⟨fun _ => rfl, fun h => absurd h Bool.false_ne_true⟩
theorem rst10 : Statement .rst10 := ⟨fun _ => rfl, fun h => absurd h Bool.false_ne_true⟩
theorem retC : Statement .retC := ⟨fun _ => rfl, fun h => absurd h Bool.false_ne_true⟩
theorem reti : Statement .reti := ⟨fun _ => rfl, fun h => absurd h Bool.false_ne_true⟩
theorem illegalDB : Statement .illegalDB := ⟨fun _ => rfl, fun h => absurd h Bool.false_ne_true⟩
theorem illegalDD : Statement .illegalDD := ⟨fun _ => rfl, fun h => absurd h Bool.false_ne_true⟩
theorem rst18 : Statement .rst18 := ⟨fun _ => rfl, fun h => absurd h Bool.false_ne_true⟩
theorem popHl : Statement .popHl := ⟨fun _ => rfl, fun h => absurd h Bool.false_ne_true⟩
theorem ldAtCA : Statement .ldAtCA := ⟨fun _ => rfl, fun h => absurd h Bool.false_ne_true⟩
theorem illegalE3 : Statement .illegalE3 := ⟨fun _ => rfl, fun h => absurd h Bool.false_ne_true⟩
theorem illegalE4 : Statement .illegalE4 := ⟨fun _ => rfl, fun h => absurd h Bool.false_ne_true⟩
theorem pushHl : Statement .pushHl := ⟨fun _ => rfl, fun h => absurd h Bool.false_ne_true⟩
theorem rst20 : Statement .rst20 := ⟨fun _ => rfl, fun h => absurd h Bool.false_ne_true⟩
theorem jpHl : Statement .jpHl := ⟨fun _ => rfl, fun h => absurd h Bool.false_ne_true⟩
theorem illegalEB : Statement .illegalEB := ⟨fun _ => rfl, fun h => absurd h Bool.false_ne_true⟩
theorem illegalEC : Statement .illegalEC := ⟨fun _ => rfl, fun h => absurd h Bool.false_ne_true⟩
theorem illegalED : Statement .illegalED := ⟨fun _ => rfl, fun h => absurd h Bool.false_ne_true⟩
theorem rst28 : Statement .rst28 := ⟨fun _ => rfl, fun h => absurd h Bool.false_ne_true⟩
theorem popAf : Statement .popAf := ⟨fun _ => rfl, fun h => absurd h Bool.false_ne_true⟩
theorem ldAAtC : Statement .ldAAtC := ⟨fun _ => rfl, fun h => absurd h Bool.false_ne_true⟩
theorem di : Statement .di := ⟨fun _ => rfl, fun h => absurd h Bool.false_ne_true⟩
theorem illegalF4 : Statement .illegalF4 := ⟨fun _ => rfl, fun h => absurd h Bool.false_ne_true⟩
theorem pushAf : Statement .pushAf := ⟨fun _ => rfl, fun h => absurd h Bool.false_ne_true⟩
theorem rst30 : Statement .rst30 := ⟨fun _ => rfl, fun h => absurd h Bool.false_ne_true⟩
theorem ldSpHl : Statement .ldSpHl := ⟨fun _ => rfl, fun h => absurd h Bool.false_ne_true⟩
theorem ei : Statement .ei := ⟨fun _ => rfl, fun h => absurd h Bool.false_ne_true⟩
theorem illegalFC : Statement .illegalFC := ⟨fun _ => rfl, fun h => absurd h Bool.false_ne_true⟩
theorem illegalFD : Statement .illegalFD := ⟨fun _ => rfl, fun h => absurd h Bool.false_ne_true⟩
theorem rst38 : Statement .rst38 := ⟨fun _ => rfl, fun h => absurd h Bool.false_ne_true⟩
theorem prefixCb : Statement .prefixCb := ⟨fun h => absurd h Bool.false_ne_true, fun h => absurd h Bool.false_ne_true⟩
theorem rlcAtHl : Statement .rlcAtHl := ⟨fun _ => rfl, fun h => absurd h Bool.false_ne_true⟩
theorem rrcAtHl : Statement .rrcAtHl := ⟨fun _ => rfl, fun h => absurd h Bool.false_ne_true⟩
theorem rlAtHl : Statement .rlAtHl := ⟨fun _ => rfl, fun h => absurd h Bool.false_ne_true⟩
theorem rrAtHl : Statement .rrAtHl := ⟨fun _ => rfl, fun h => absurd h Bool.false_ne_true⟩
theorem slaAtHl : Statement .slaAtHl := ⟨fun _ => rfl, fun h => absurd h Bool.false_ne_true⟩
theorem sraAtHl : Statement .sraAtHl := ⟨fun _ => rfl, fun h => absurd h Bool.false_ne_true⟩
theorem swapAtHl : Statement .swapAtHl := ⟨fun _ => rfl, fun h => absurd h Bool.false_ne_true⟩
theorem srlAtHl : Statement .srlAtHl := ⟨fun _ => rfl, fun h => absurd h Bool.false_ne_true⟩
theorem halting : Statement .halting := ⟨fun h => absurd h Bool.false_ne_true, fun _ => rfl⟩
theorem intCancelled : Statement .intCancelled := ⟨fun h => absurd h Bool.false_ne_true, fun _ => rfl⟩

end Sys2Proof.Laws.EncodeLength
end

