-- ==== Sys2Proof/Tests/Slice0.lean ====
section
/-! SUPPORT. The model's own tests: what is not well formed, decoding, one step of each kind, and a witness for the premises of every statement that has
some. Expected values are those of 95_test_vectors.md and of the opcode maps of 30_encoding.md. -/

namespace Sys2Proof.Tests

set_option Elab.async false

open Sys2Proof Sys2Proof.Machine

/-! ### Helpers -/

/-- A list of bytes decodes to exactly this instruction, whose encoding it is. -/
def reads (bs : List Byte) (i : Instr) : Bool :=
  match decode bs with
  | .ok (j, rest) => j == i && rest == [] && encode i == bs
  | .error _ => false

/-- The registers of the default start state of part L2. -/
def r0 : Regs := { a := 0, f := 0, b := 0, c := 0, d := 0, e := 0, h := 0, l := 0, sp := 0xDFF0, pc := 0xC000 }

/-- The default start state of part L2. -/
def base : State :=
  { State.reset with bus.bootOverlay := false, env.source := .closed, regs := r0 }

/-- A state with these bytes placed on the bypass path. -/
def put (s : State) : List (Word × Byte) → State
  | [] => s
  | (a, v) :: rest => put (s.poke a v) rest

/-- A state with the bytes of a program placed from an address on. -/
def program (s : State) (a : Word) : List Byte → State
  | [] => s
  | v :: rest => program (s.poke a v) (a + 1) rest

/-- The start state with these registers, the instruction at 0xC000, and these bytes. -/
def start (r : Regs) (code : List Byte) (cells : List (Word × Byte)) : State := program (put { base with regs := r } cells) 0xC000 code

/-- A step ends in a next state with this property. -/
def ends (s : State) (p : State → Bool) : Bool :=
  match step s with
  | .next t => p t
  | .fault _ => false
  | .refused _ => false

/-- A step leaves these registers, these bytes, and a wait of `m` M-cycles less the tick itself. -/
def ran (s : State) (m : Nat) (r : Regs) (cells : List (Word × Byte)) : Bool :=
  ends s fun t => t.regs == r && t.cpu.cpuWait == 4 * m - 1 && cells.all fun c => t.peek c.1 == c.2

/-- The state after some steps, or the last one before a stop. -/
def after (s : State) : Nat → State
  | 0 => s
  | n + 1 => match step s with
    | .next t => after t n
    | .fault _ => s
    | .refused _ => s

/-! ### Well-formedness: the terms that no byte sequence spells, and the bare prefix -/

theorem test_wf_refuses_halting : Instr.halting.wellFormed = false := by decide
theorem test_wf_refuses_interrupt : (Instr.interrupt .vblank).wellFormed = false := by decide
theorem test_wf_refuses_cancelled_interrupt : Instr.intCancelled.wellFormed = false := by decide
theorem test_wf_refuses_bare_prefix : Instr.prefixCb.wellFormed = false := by decide
theorem test_wf_accepts_nop : Instr.nop.wellFormed = true := by decide

/-! ### Rejections of the decoder, and the host's two entries -/

theorem test_decode_refuses_no_bytes : (match decode [] with | .error .noBytes => true | _ => false) = true := by decide
theorem test_table_word_ld_sp_n16 : decodeTableWord 24 0x123431 = some (.ldSpN16 0x1234) := by decide
theorem test_fetch_word_runs :
    ends ({ State.reset with env.source := .closed }.withFetchWord 8 0x3C) (fun t => t.regs.a == 1 && t.cpu.opcode == .byte 0x3C) = true := by decide +kernel

/-! ### Decoding: a word of every constructor, written out from the opcode maps R82 and R83 -/

theorem test_decode_loads_1 :
    (reads [0b01000000] .ldBB && reads [0b01000001] .ldBC && reads [0b01000010] .ldBD
      && reads [0b01000011] .ldBE && reads [0b01000100] .ldBH && reads [0b01000101] .ldBL
      && reads [0b01000111] .ldBA && reads [0b01001000] .ldCB && reads [0b01001001] .ldCC
      && reads [0b01001010] .ldCD && reads [0b01001011] .ldCE && reads [0b01001100] .ldCH
      && reads [0b01001101] .ldCL && reads [0b01001111] .ldCA && reads [0b01010000] .ldDB
      && reads [0b01010001] .ldDC && reads [0b01010010] .ldDD && reads [0b01010011] .ldDE
      && reads [0b01010100] .ldDH && reads [0b01010101] .ldDL && reads [0b01010111] .ldDA
      && reads [0b01011000] .ldEB && reads [0b01011001] .ldEC && reads [0b01011010] .ldED) = true := by decide +kernel
theorem test_decode_loads_2 :
    (reads [0b01011011] .ldEE && reads [0b01011100] .ldEH && reads [0b01011101] .ldEL
      && reads [0b01011111] .ldEA && reads [0b01100000] .ldHB && reads [0b01100001] .ldHC
      && reads [0b01100010] .ldHD && reads [0b01100011] .ldHE && reads [0b01100100] .ldHH
      && reads [0b01100101] .ldHL && reads [0b01100111] .ldHA && reads [0b01101000] .ldLB
      && reads [0b01101001] .ldLC && reads [0b01101010] .ldLD && reads [0b01101011] .ldLE
      && reads [0b01101100] .ldLH && reads [0b01101101] .ldLL && reads [0b01101111] .ldLA
      && reads [0b01111000] .ldAB && reads [0b01111001] .ldAC && reads [0b01111010] .ldAD
      && reads [0b01111011] .ldAE && reads [0b01111100] .ldAH && reads [0b01111101] .ldAL) = true := by decide +kernel
theorem test_decode_loads_3 :
    (reads [0b01111111] .ldAA && reads [0b00000110, 0x5A] (.ldBN8 0x5A) && reads [0b00001110, 0x5A] (.ldCN8 0x5A)
      && reads [0b00010110, 0x5A] (.ldDN8 0x5A) && reads [0b00011110, 0x5A] (.ldEN8 0x5A) && reads [0b00100110, 0x5A] (.ldHN8 0x5A)
      && reads [0b00101110, 0x5A] (.ldLN8 0x5A) && reads [0b00111110, 0x5A] (.ldAN8 0x5A) && reads [0b01000110] .ldBAtHl
      && reads [0b01001110] .ldCAtHl && reads [0b01010110] .ldDAtHl && reads [0b01011110] .ldEAtHl
      && reads [0b01100110] .ldHAtHl && reads [0b01101110] .ldLAtHl && reads [0b01111110] .ldAAtHl
      && reads [0b01110000] .ldAtHlB && reads [0b01110001] .ldAtHlC && reads [0b01110010] .ldAtHlD
      && reads [0b01110011] .ldAtHlE && reads [0b01110100] .ldAtHlH && reads [0b01110101] .ldAtHlL
      && reads [0b01110111] .ldAtHlA && reads [0b00110110, 0x5A] (.ldAtHlN8 0x5A) && reads [0b00001010] .ldAAtBc) = true := by decide +kernel
theorem test_decode_loads_4 :
    (reads [0b00011010] .ldAAtDe && reads [0b00000010] .ldAtBcA && reads [0b00010010] .ldAtDeA
      && reads [0b00100010] .ldAtHlIncA && reads [0b00101010] .ldAAtHlInc && reads [0b00110010] .ldAtHlDecA
      && reads [0b00111010] .ldAAtHlDec && reads [0b11111010, 0x34, 0x12] (.ldAAtA16 0x1234) && reads [0b11101010, 0x34, 0x12] (.ldAtA16A 0x1234)
      && reads [0b11110000, 0x5A] (.ldhAAtA8 0x5A) && reads [0b11100000, 0x5A] (.ldhAtA8A 0x5A) && reads [0b11110010] .ldAAtC
      && reads [0b11100010] .ldAtCA && reads [0b00000001, 0x34, 0x12] (.ldBcN16 0x1234) && reads [0b00010001, 0x34, 0x12] (.ldDeN16 0x1234)
      && reads [0b00100001, 0x34, 0x12] (.ldHlN16 0x1234) && reads [0b00110001, 0x34, 0x12] (.ldSpN16 0x1234) && reads [0b00001000, 0x34, 0x12] (.ldAtA16Sp 0x1234)
      && reads [0b11111001] .ldSpHl && reads [0b11000101] .pushBc && reads [0b11010101] .pushDe
      && reads [0b11100101] .pushHl && reads [0b11110101] .pushAf && reads [0b11000001] .popBc) = true := by decide +kernel
theorem test_decode_loads_5 :
    (reads [0b11010001] .popDe && reads [0b11100001] .popHl && reads [0b11110001] .popAf) = true := by decide +kernel
theorem test_decode_alu8_1 :
    (reads [0b10000000] .addAB && reads [0b10000001] .addAC && reads [0b10000010] .addAD
      && reads [0b10000011] .addAE && reads [0b10000100] .addAH && reads [0b10000101] .addAL
      && reads [0b10000111] .addAA && reads [0b10000110] .addAAtHl && reads [0b11000110, 0x5A] (.addAN8 0x5A)
      && reads [0b10001000] .adcAB && reads [0b10001001] .adcAC && reads [0b10001010] .adcAD
      && reads [0b10001011] .adcAE && reads [0b10001100] .adcAH && reads [0b10001101] .adcAL
      && reads [0b10001111] .adcAA && reads [0b10001110] .adcAAtHl && reads [0b11001110, 0x5A] (.adcAN8 0x5A)
      && reads [0b10010000] .subAB && reads [0b10010001] .subAC && reads [0b10010010] .subAD
      && reads [0b10010011] .subAE && reads [0b10010100] .subAH && reads [0b10010101] .subAL) = true := by decide +kernel
theorem test_decode_alu8_2 :
    (reads [0b10010111] .subAA && reads [0b10010110] .subAAtHl && reads [0b11010110, 0x5A] (.subAN8 0x5A)
      && reads [0b10011000] .sbcAB && reads [0b10011001] .sbcAC && reads [0b10011010] .sbcAD
      && reads [0b10011011] .sbcAE && reads [0b10011100] .sbcAH && reads [0b10011101] .sbcAL
      && reads [0b10011111] .sbcAA && reads [0b10011110] .sbcAAtHl && reads [0b11011110, 0x5A] (.sbcAN8 0x5A)
      && reads [0b10111000] .cpAB && reads [0b10111001] .cpAC && reads [0b10111010] .cpAD
      && reads [0b10111011] .cpAE && reads [0b10111100] .cpAH && reads [0b10111101] .cpAL
      && reads [0b10111111] .cpAA && reads [0b10111110] .cpAAtHl && reads [0b11111110, 0x5A] (.cpAN8 0x5A)
      && reads [0b10100000] .andAB && reads [0b10100001] .andAC && reads [0b10100010] .andAD) = true := by decide +kernel
theorem test_decode_alu8_3 :
    (reads [0b10100011] .andAE && reads [0b10100100] .andAH && reads [0b10100101] .andAL
      && reads [0b10100111] .andAA && reads [0b10100110] .andAAtHl && reads [0b11100110, 0x5A] (.andAN8 0x5A)
      && reads [0b10101000] .xorAB && reads [0b10101001] .xorAC && reads [0b10101010] .xorAD
      && reads [0b10101011] .xorAE && reads [0b10101100] .xorAH && reads [0b10101101] .xorAL
      && reads [0b10101111] .xorAA && reads [0b10101110] .xorAAtHl && reads [0b11101110, 0x5A] (.xorAN8 0x5A)
      && reads [0b10110000] .orAB && reads [0b10110001] .orAC && reads [0b10110010] .orAD
      && reads [0b10110011] .orAE && reads [0b10110100] .orAH && reads [0b10110101] .orAL
      && reads [0b10110111] .orAA && reads [0b10110110] .orAAtHl && reads [0b11110110, 0x5A] (.orAN8 0x5A)) = true := by decide +kernel
theorem test_decode_alu8_4 :
    (reads [0b00000100] .incB && reads [0b00001100] .incC && reads [0b00010100] .incD
      && reads [0b00011100] .incE && reads [0b00100100] .incH && reads [0b00101100] .incL
      && reads [0b00111100] .incA && reads [0b00110100] .incAtHl && reads [0b00000101] .decB
      && reads [0b00001101] .decC && reads [0b00010101] .decD && reads [0b00011101] .decE
      && reads [0b00100101] .decH && reads [0b00101101] .decL && reads [0b00111101] .decA
      && reads [0b00110101] .decAtHl && reads [0b00100111] .daa && reads [0b00101111] .cpl
      && reads [0b00110111] .scf && reads [0b00111111] .ccf) = true := by decide +kernel
theorem test_decode_alu16_1 :
    (reads [0b00000011] .incBc && reads [0b00010011] .incDe && reads [0b00100011] .incHl
      && reads [0b00110011] .incSp && reads [0b00001011] .decBc && reads [0b00011011] .decDe
      && reads [0b00101011] .decHl && reads [0b00111011] .decSp && reads [0b00001001] .addHlBc
      && reads [0b00011001] .addHlDe && reads [0b00101001] .addHlHl && reads [0b00111001] .addHlSp
      && reads [0b11101000, 0x5A] (.addSpE8 0x5A) && reads [0b11111000, 0x5A] (.ldHlSpE8 0x5A)) = true := by decide +kernel
theorem test_decode_bitops_1 :
    (reads [0b00000111] .rlca && reads [0b00001111] .rrca && reads [0b00010111] .rla
      && reads [0b00011111] .rra && reads [0xCB, 0b00000000] (.rlcR .b) && reads [0xCB, 0b00000001] (.rlcR .c)
      && reads [0xCB, 0b00000010] (.rlcR .d) && reads [0xCB, 0b00000011] (.rlcR .e) && reads [0xCB, 0b00000100] (.rlcR .h)
      && reads [0xCB, 0b00000101] (.rlcR .l) && reads [0xCB, 0b00000111] (.rlcR .a) && reads [0xCB, 0b00000110] .rlcAtHl
      && reads [0xCB, 0b00001000] (.rrcR .b) && reads [0xCB, 0b00001001] (.rrcR .c) && reads [0xCB, 0b00001010] (.rrcR .d)
      && reads [0xCB, 0b00001011] (.rrcR .e) && reads [0xCB, 0b00001100] (.rrcR .h) && reads [0xCB, 0b00001101] (.rrcR .l)
      && reads [0xCB, 0b00001111] (.rrcR .a) && reads [0xCB, 0b00001110] .rrcAtHl && reads [0xCB, 0b00010000] (.rlR .b)
      && reads [0xCB, 0b00010001] (.rlR .c) && reads [0xCB, 0b00010010] (.rlR .d) && reads [0xCB, 0b00010011] (.rlR .e)) = true := by decide +kernel
theorem test_decode_bitops_2 :
    (reads [0xCB, 0b00010100] (.rlR .h) && reads [0xCB, 0b00010101] (.rlR .l) && reads [0xCB, 0b00010111] (.rlR .a)
      && reads [0xCB, 0b00010110] .rlAtHl && reads [0xCB, 0b00011000] (.rrR .b) && reads [0xCB, 0b00011001] (.rrR .c)
      && reads [0xCB, 0b00011010] (.rrR .d) && reads [0xCB, 0b00011011] (.rrR .e) && reads [0xCB, 0b00011100] (.rrR .h)
      && reads [0xCB, 0b00011101] (.rrR .l) && reads [0xCB, 0b00011111] (.rrR .a) && reads [0xCB, 0b00011110] .rrAtHl
      && reads [0xCB, 0b00100000] (.slaR .b) && reads [0xCB, 0b00100001] (.slaR .c) && reads [0xCB, 0b00100010] (.slaR .d)
      && reads [0xCB, 0b00100011] (.slaR .e) && reads [0xCB, 0b00100100] (.slaR .h) && reads [0xCB, 0b00100101] (.slaR .l)
      && reads [0xCB, 0b00100111] (.slaR .a) && reads [0xCB, 0b00100110] .slaAtHl && reads [0xCB, 0b00101000] (.sraR .b)
      && reads [0xCB, 0b00101001] (.sraR .c) && reads [0xCB, 0b00101010] (.sraR .d) && reads [0xCB, 0b00101011] (.sraR .e)) = true := by decide +kernel
theorem test_decode_bitops_3 :
    (reads [0xCB, 0b00101100] (.sraR .h) && reads [0xCB, 0b00101101] (.sraR .l) && reads [0xCB, 0b00101111] (.sraR .a)
      && reads [0xCB, 0b00101110] .sraAtHl && reads [0xCB, 0b00110000] (.swapR .b) && reads [0xCB, 0b00110001] (.swapR .c)
      && reads [0xCB, 0b00110010] (.swapR .d) && reads [0xCB, 0b00110011] (.swapR .e) && reads [0xCB, 0b00110100] (.swapR .h)
      && reads [0xCB, 0b00110101] (.swapR .l) && reads [0xCB, 0b00110111] (.swapR .a) && reads [0xCB, 0b00110110] .swapAtHl
      && reads [0xCB, 0b00111000] (.srlR .b) && reads [0xCB, 0b00111001] (.srlR .c) && reads [0xCB, 0b00111010] (.srlR .d)
      && reads [0xCB, 0b00111011] (.srlR .e) && reads [0xCB, 0b00111100] (.srlR .h) && reads [0xCB, 0b00111101] (.srlR .l)
      && reads [0xCB, 0b00111111] (.srlR .a) && reads [0xCB, 0b00111110] .srlAtHl && reads [0xCB, 0b01101000] (.bitBR 5 .b)
      && reads [0xCB, 0b01101001] (.bitBR 5 .c) && reads [0xCB, 0b01101010] (.bitBR 5 .d) && reads [0xCB, 0b01101011] (.bitBR 5 .e)) = true := by decide +kernel
theorem test_decode_bitops_4 :
    (reads [0xCB, 0b01101100] (.bitBR 5 .h) && reads [0xCB, 0b01101101] (.bitBR 5 .l) && reads [0xCB, 0b01101111] (.bitBR 5 .a)
      && reads [0xCB, 0b01000000] (.bitBR 0 .b) && reads [0xCB, 0b01111111] (.bitBR 7 .a) && reads [0xCB, 0b01010100] (.bitBR 2 .h)
      && reads [0xCB, 0b01000110] (.bitBAtHl 0) && reads [0xCB, 0b01001110] (.bitBAtHl 1) && reads [0xCB, 0b01010110] (.bitBAtHl 2)
      && reads [0xCB, 0b01011110] (.bitBAtHl 3) && reads [0xCB, 0b01100110] (.bitBAtHl 4) && reads [0xCB, 0b01101110] (.bitBAtHl 5)
      && reads [0xCB, 0b01110110] (.bitBAtHl 6) && reads [0xCB, 0b01111110] (.bitBAtHl 7) && reads [0xCB, 0b10101000] (.resBR 5 .b)
      && reads [0xCB, 0b10101001] (.resBR 5 .c) && reads [0xCB, 0b10101010] (.resBR 5 .d) && reads [0xCB, 0b10101011] (.resBR 5 .e)
      && reads [0xCB, 0b10101100] (.resBR 5 .h) && reads [0xCB, 0b10101101] (.resBR 5 .l) && reads [0xCB, 0b10101111] (.resBR 5 .a)
      && reads [0xCB, 0b10000000] (.resBR 0 .b) && reads [0xCB, 0b10111111] (.resBR 7 .a) && reads [0xCB, 0b10010100] (.resBR 2 .h)) = true := by decide +kernel
theorem test_decode_bitops_5 :
    (reads [0xCB, 0b10000110] (.resBAtHl 0) && reads [0xCB, 0b10001110] (.resBAtHl 1) && reads [0xCB, 0b10010110] (.resBAtHl 2)
      && reads [0xCB, 0b10011110] (.resBAtHl 3) && reads [0xCB, 0b10100110] (.resBAtHl 4) && reads [0xCB, 0b10101110] (.resBAtHl 5)
      && reads [0xCB, 0b10110110] (.resBAtHl 6) && reads [0xCB, 0b10111110] (.resBAtHl 7) && reads [0xCB, 0b11101000] (.setBR 5 .b)
      && reads [0xCB, 0b11101001] (.setBR 5 .c) && reads [0xCB, 0b11101010] (.setBR 5 .d) && reads [0xCB, 0b11101011] (.setBR 5 .e)
      && reads [0xCB, 0b11101100] (.setBR 5 .h) && reads [0xCB, 0b11101101] (.setBR 5 .l) && reads [0xCB, 0b11101111] (.setBR 5 .a)
      && reads [0xCB, 0b11000000] (.setBR 0 .b) && reads [0xCB, 0b11111111] (.setBR 7 .a) && reads [0xCB, 0b11010100] (.setBR 2 .h)
      && reads [0xCB, 0b11000110] (.setBAtHl 0) && reads [0xCB, 0b11001110] (.setBAtHl 1) && reads [0xCB, 0b11010110] (.setBAtHl 2)
      && reads [0xCB, 0b11011110] (.setBAtHl 3) && reads [0xCB, 0b11100110] (.setBAtHl 4) && reads [0xCB, 0b11101110] (.setBAtHl 5)) = true := by decide +kernel
theorem test_decode_bitops_6 :
    (reads [0xCB, 0b11110110] (.setBAtHl 6) && reads [0xCB, 0b11111110] (.setBAtHl 7)) = true := by decide +kernel
theorem test_decode_control_1 :
    (reads [0b11000011, 0x34, 0x12] (.jpA16 0x1234) && reads [0b11000010, 0x34, 0x12] (.jpNzA16 0x1234) && reads [0b11001010, 0x34, 0x12] (.jpZA16 0x1234)
      && reads [0b11010010, 0x34, 0x12] (.jpNcA16 0x1234) && reads [0b11011010, 0x34, 0x12] (.jpCA16 0x1234) && reads [0b11101001] .jpHl
      && reads [0b00011000, 0x5A] (.jrE8 0x5A) && reads [0b00100000, 0x5A] (.jrNzE8 0x5A) && reads [0b00101000, 0x5A] (.jrZE8 0x5A)
      && reads [0b00110000, 0x5A] (.jrNcE8 0x5A) && reads [0b00111000, 0x5A] (.jrCE8 0x5A) && reads [0b11001101, 0x34, 0x12] (.callA16 0x1234)
      && reads [0b11000100, 0x34, 0x12] (.callNzA16 0x1234) && reads [0b11001100, 0x34, 0x12] (.callZA16 0x1234) && reads [0b11010100, 0x34, 0x12] (.callNcA16 0x1234)
      && reads [0b11011100, 0x34, 0x12] (.callCA16 0x1234) && reads [0b11000111] .rst00 && reads [0b11001111] .rst08
      && reads [0b11010111] .rst10 && reads [0b11011111] .rst18 && reads [0b11100111] .rst20
      && reads [0b11101111] .rst28 && reads [0b11110111] .rst30 && reads [0b11111111] .rst38) = true := by decide +kernel
theorem test_decode_control_2 :
    (reads [0b11001001] .ret && reads [0b11000000] .retNz && reads [0b11001000] .retZ
      && reads [0b11010000] .retNc && reads [0b11011000] .retC && reads [0b11011001] .reti) = true := by decide +kernel
theorem test_decode_system_1 :
    (reads [0b00000000] .nop && reads [0b11110011] .di && reads [0b11111011] .ei
      && reads [0b01110110] .halt && reads [0b00010000, 0x5A] (.stop 0x5A) && reads [0b11010011] .illegalD3
      && reads [0b11011011] .illegalDB && reads [0b11011101] .illegalDD && reads [0b11100011] .illegalE3
      && reads [0b11100100] .illegalE4 && reads [0b11101011] .illegalEB && reads [0b11101100] .illegalEC
      && reads [0b11101101] .illegalED && reads [0b11110100] .illegalF4 && reads [0b11111100] .illegalFC
      && reads [0b11111101] .illegalFD) = true := by decide +kernel

/-! ### One step of an instruction: the vectors of 95_test_vectors.md, part L2 -/

theorem test_ld_b_c_L2_LD_1 :
    ran (start ({ r0 with c := 0x5A }) [0x41] []) 1 ({ r0 with c := 0x5A, b := 0x5A, pc := 0xC001 }) [] = true := by decide +kernel
theorem test_ld_a_n8_L2_LD_2 :
    ran (start r0 [0x3E, 0x5A] []) 2 ({ r0 with a := 0x5A, pc := 0xC002 }) [] = true := by decide +kernel
theorem test_ld_a_hl_L2_LD_3 :
    ran (start ({ r0 with h := 0xC1, l := 0x00 }) [0x7E] [(0xC100, 0x99)]) 2 ({ r0 with h := 0xC1, l := 0x00, a := 0x99, pc := 0xC001 }) [] = true := by decide +kernel
theorem test_ld_hl_a_L2_LD_4 :
    ran (start ({ r0 with a := 0x42, h := 0x80, l := 0x00 }) [0x77] []) 2 ({ r0 with a := 0x42, h := 0x80, l := 0x00, pc := 0xC001 }) [(0x8000, 0x42)] = true := by decide +kernel
theorem test_ld_hl_n8_L2_LD_5 :
    ran (start ({ r0 with h := 0xC1, l := 0x00 }) [0x36, 0x33] []) 3 ({ r0 with h := 0xC1, l := 0x00, pc := 0xC002 }) [(0xC100, 0x33)] = true := by decide +kernel
theorem test_ld_a_bc_L2_LD_6 :
    ran (start ({ r0 with b := 0xC1, c := 0x00 }) [0x0A] [(0xC100, 0x42)]) 2 ({ r0 with b := 0xC1, c := 0x00, a := 0x42, pc := 0xC001 }) [] = true := by decide +kernel
theorem test_ld_de_a_L2_LD_7 :
    ran (start ({ r0 with a := 0x66, d := 0xC1, e := 0x00 }) [0x12] []) 2 ({ r0 with a := 0x66, d := 0xC1, e := 0x00, pc := 0xC001 }) [(0xC100, 0x66)] = true := by decide +kernel
theorem test_ld_hlinc_a_L2_LD_8 :
    ran (start ({ r0 with a := 0x1F, h := 0xFF, l := 0xFF }) [0x22] []) 2 ({ r0 with a := 0x1F, h := 0x00, l := 0x00, pc := 0xC001 }) [(0xFFFF, 0x1F)] = true := by decide +kernel
theorem test_ld_a_hlinc_L2_LD_9 :
    ran (start ({ r0 with h := 0xC1, l := 0x00 }) [0x2A] [(0xC100, 0xAB)]) 2 ({ r0 with h := 0xC1, l := 0x01, a := 0xAB, pc := 0xC001 }) [] = true := by decide +kernel
theorem test_ld_hldec_a_L2_LD_10 :
    ran (start ({ r0 with a := 0x07, h := 0xC1, l := 0x00 }) [0x32] []) 2 ({ r0 with a := 0x07, h := 0xC0, l := 0xFF, pc := 0xC001 }) [(0xC100, 0x07)] = true := by decide +kernel
theorem test_ld_a_hldec_L2_LD_11 :
    ran (start ({ r0 with h := 0x00, l := 0x00 }) [0x3A] []) 2 ({ r0 with h := 0xFF, l := 0xFF, pc := 0xC001 }) [] = true := by decide +kernel
theorem test_ld_a_a16_L2_LD_12 :
    ran (start r0 [0xFA, 0x00, 0xC1] [(0xC100, 0x3C)]) 4 ({ r0 with a := 0x3C, pc := 0xC003 }) [] = true := by decide +kernel
theorem test_ld_a16_a_L2_LD_13 :
    ran (start ({ r0 with a := 0x77 }) [0xEA, 0x00, 0xC1] []) 4 ({ r0 with a := 0x77, pc := 0xC003 }) [(0xC100, 0x77)] = true := by decide +kernel
theorem test_ld_a16_a_L2_LD_14 :
    ran (start ({ r0 with a := 0x05 }) [0xEA, 0x00, 0x20] []) 4 ({ r0 with a := 0x05, pc := 0xC003 }) [] = true := by decide +kernel
theorem test_ldh_a_a8_L2_LD_15 :
    ran (start r0 [0xF0, 0x44] []) 3 ({ r0 with pc := 0xC002 }) [] = true := by decide +kernel
theorem test_ldh_a_a8_L2_LD_16 :
    ran (start r0 [0xF0, 0x07] []) 3 ({ r0 with a := 0xF8, pc := 0xC002 }) [] = true := by decide +kernel
theorem test_ld_a_c_L2_LD_18 :
    ran ({ start ({ r0 with c := 0x0F }) [0xF2] [] with irq.ifl := 0x01 }) 2 ({ r0 with c := 0x0F, a := 0xE1, pc := 0xC001 }) [] = true := by decide +kernel
theorem test_ld_c_a_L2_LD_19 :
    ran (start ({ r0 with a := 0x11, c := 0x80 }) [0xE2] []) 2 ({ r0 with a := 0x11, c := 0x80, pc := 0xC001 }) [(0xFF80, 0x11)] = true := by decide +kernel
theorem test_ld_a_a16_L2_LD_21 :
    ran (start r0 [0xFA, 0x00, 0xE1] [(0xC100, 0x5E)]) 4 ({ r0 with a := 0x5E, pc := 0xC003 }) [] = true := by decide +kernel
theorem test_ld_bc_n16_L2_LD_22 :
    ran (start r0 [0x01, 0x34, 0x12] []) 3 ({ r0 with b := 0x12, c := 0x34, pc := 0xC003 }) [] = true := by decide +kernel
theorem test_ld_sp_n16_L2_LD_23 :
    ran (start r0 [0x31, 0xFE, 0xFF] []) 3 ({ r0 with sp := 0xFFFE, pc := 0xC003 }) [] = true := by decide +kernel
theorem test_ld_a16_sp_L2_LD_24 :
    ran (start ({ r0 with sp := 0xFFF8 }) [0x08, 0x00, 0xC1] []) 5 ({ r0 with sp := 0xFFF8, pc := 0xC003 }) [(0xC100, 0xF8), (0xC101, 0xFF)] = true := by decide +kernel
theorem test_ld_sp_hl_L2_LD_25 :
    ran (start ({ r0 with h := 0xDF, l := 0xF0, sp := 0x0000 }) [0xF9] []) 2 ({ r0 with h := 0xDF, l := 0xF0, sp := 0xDFF0, pc := 0xC001 }) [] = true := by decide +kernel
theorem test_push_bc_L2_LD_26 :
    ran (start ({ r0 with b := 0x12, c := 0x34, sp := 0xDFF0 }) [0xC5] []) 4 ({ r0 with b := 0x12, c := 0x34, sp := 0xDFEE, pc := 0xC001 }) [(0xDFEF, 0x12), (0xDFEE, 0x34)] = true := by decide +kernel
theorem test_pop_bc_L2_LD_27 :
    ran (start ({ r0 with sp := 0xDFEE }) [0xC1] [(0xDFEE, 0x34), (0xDFEF, 0x12)]) 3 ({ r0 with sp := 0xDFF0, b := 0x12, c := 0x34, pc := 0xC001 }) [] = true := by decide +kernel
theorem test_pop_af_L2_LD_28 :
    ran (start ({ r0 with sp := 0xDFEE }) [0xF1] [(0xDFEE, 0xFF), (0xDFEF, 0x12)]) 3 ({ r0 with sp := 0xDFF0, a := 0x12, f := 0xF0, pc := 0xC001 }) [] = true := by decide +kernel
theorem test_push_af_L2_LD_29 :
    ran (start ({ r0 with a := 0x12, f := 0xB0, sp := 0xDFF0 }) [0xF5] []) 4 ({ r0 with a := 0x12, f := 0xB0, sp := 0xDFEE, pc := 0xC001 }) [(0xDFEF, 0x12), (0xDFEE, 0xB0)] = true := by decide +kernel
theorem test_push_bc_L2_LD_30 :
    ran (start ({ r0 with b := 0xAB, c := 0xCD, sp := 0x0000 }) [0xC5] []) 4 ({ r0 with b := 0xAB, c := 0xCD, sp := 0xFFFE, pc := 0xC001 }) [(0xFFFF, 0xAB), (0xFFFE, 0xCD)] = true := by decide +kernel
theorem test_add_a_b_L2_ALU_1 :
    ran (start ({ r0 with a := 0x0F, b := 0x01 }) [0x80] []) 1 ({ r0 with a := 0x10, b := 0x01, f := 0x20, pc := 0xC001 }) [] = true := by decide +kernel
theorem test_add_a_b_L2_ALU_2 :
    ran (start ({ r0 with a := 0xFF, b := 0x01 }) [0x80] []) 1 ({ r0 with a := 0x00, b := 0x01, f := 0xB0, pc := 0xC001 }) [] = true := by decide +kernel
theorem test_adc_a_b_L2_ALU_4 :
    ran (start ({ r0 with a := 0x0F, b := 0x00, f := 0x10 }) [0x88] []) 1 ({ r0 with a := 0x10, b := 0x00, f := 0x20, pc := 0xC001 }) [] = true := by decide +kernel
theorem test_adc_a_b_L2_ALU_5 :
    ran (start ({ r0 with a := 0xFF, b := 0x00, f := 0x10 }) [0x88] []) 1 ({ r0 with a := 0x00, b := 0x00, f := 0xB0, pc := 0xC001 }) [] = true := by decide +kernel
theorem test_sub_a_b_L2_ALU_6 :
    ran (start ({ r0 with a := 0x10, b := 0x01 }) [0x90] []) 1 ({ r0 with a := 0x0F, b := 0x01, f := 0x60, pc := 0xC001 }) [] = true := by decide +kernel
theorem test_sub_a_b_L2_ALU_8 :
    ran (start ({ r0 with a := 0x00, b := 0x01 }) [0x90] []) 1 ({ r0 with a := 0xFF, b := 0x01, f := 0x70, pc := 0xC001 }) [] = true := by decide +kernel
theorem test_sbc_a_b_L2_ALU_9 :
    ran (start ({ r0 with a := 0x00, b := 0x00, f := 0x10 }) [0x98] []) 1 ({ r0 with a := 0xFF, b := 0x00, f := 0x70, pc := 0xC001 }) [] = true := by decide +kernel
theorem test_sbc_a_b_L2_ALU_10 :
    ran (start ({ r0 with a := 0x10, b := 0x0F, f := 0x10 }) [0x98] []) 1 ({ r0 with a := 0x00, b := 0x0F, f := 0xE0, pc := 0xC001 }) [] = true := by decide +kernel
theorem test_and_a_b_L2_ALU_11 :
    ran (start ({ r0 with a := 0xF0, b := 0x0F }) [0xA0] []) 1 ({ r0 with a := 0x00, b := 0x0F, f := 0xA0, pc := 0xC001 }) [] = true := by decide +kernel
theorem test_xor_a_a_L2_ALU_12 :
    ran (start ({ r0 with a := 0x5A, f := 0x70 }) [0xAF] []) 1 ({ r0 with a := 0x00, f := 0x80, pc := 0xC001 }) [] = true := by decide +kernel
theorem test_or_a_b_L2_ALU_13 :
    ran (start ({ r0 with a := 0x50, b := 0x0A, f := 0x70 }) [0xB0] []) 1 ({ r0 with a := 0x5A, b := 0x0A, f := 0x00, pc := 0xC001 }) [] = true := by decide +kernel
theorem test_cp_a_b_L2_ALU_14 :
    ran (start ({ r0 with a := 0x3C, b := 0x40 }) [0xB8] []) 1 ({ r0 with a := 0x3C, b := 0x40, f := 0x50, pc := 0xC001 }) [] = true := by decide +kernel
theorem test_cp_a_n8_L2_ALU_15 :
    ran (start ({ r0 with a := 0x3C }) [0xFE, 0x3C] []) 2 ({ r0 with a := 0x3C, f := 0xC0, pc := 0xC002 }) [] = true := by decide +kernel
theorem test_add_a_hl_L2_ALU_16 :
    ran (start ({ r0 with a := 0x01, h := 0xC1, l := 0x00 }) [0x86] [(0xC100, 0x0F)]) 2 ({ r0 with a := 0x10, h := 0xC1, l := 0x00, f := 0x20, pc := 0xC001 }) [] = true := by decide +kernel
theorem test_add_a_n8_L2_ALU_17 :
    ran (start ({ r0 with a := 0x01 }) [0xC6, 0xFF] []) 2 ({ r0 with a := 0x00, f := 0xB0, pc := 0xC002 }) [] = true := by decide +kernel
theorem test_sbc_a_n8_L2_ALU_18 :
    ran (start ({ r0 with a := 0x00, f := 0x10 }) [0xDE, 0x01] []) 2 ({ r0 with a := 0xFE, f := 0x70, pc := 0xC002 }) [] = true := by decide +kernel
theorem test_inc_a_L2_ALU_19 :
    ran (start ({ r0 with a := 0xFF, f := 0x10 }) [0x3C] []) 1 ({ r0 with a := 0x00, f := 0xB0, pc := 0xC001 }) [] = true := by decide +kernel
theorem test_inc_b_L2_ALU_20 :
    ran (start ({ r0 with b := 0x0F }) [0x04] []) 1 ({ r0 with b := 0x10, f := 0x20, pc := 0xC001 }) [] = true := by decide +kernel
theorem test_dec_b_L2_ALU_21 :
    ran (start ({ r0 with b := 0x00 }) [0x05] []) 1 ({ r0 with b := 0xFF, f := 0x60, pc := 0xC001 }) [] = true := by decide +kernel
theorem test_dec_l_L2_ALU_22 :
    ran (start ({ r0 with l := 0x01 }) [0x2D] []) 1 ({ r0 with l := 0x00, f := 0xC0, pc := 0xC001 }) [] = true := by decide +kernel
theorem test_inc_hl_L2_ALU_23 :
    ran (start ({ r0 with h := 0xC1, l := 0x00 }) [0x34] [(0xC100, 0xFF)]) 3 ({ r0 with h := 0xC1, l := 0x00, f := 0xA0, pc := 0xC001 }) [(0xC100, 0x00)] = true := by decide +kernel
theorem test_dec_hl_L2_ALU_24 :
    ran (start ({ r0 with h := 0xC1, l := 0x00 }) [0x35] [(0xC100, 0x10)]) 3 ({ r0 with h := 0xC1, l := 0x00, f := 0x60, pc := 0xC001 }) [(0xC100, 0x0F)] = true := by decide +kernel
theorem test_daa_L2_ALU_25 :
    ran (start ({ r0 with a := 0x7D, f := 0x00 }) [0x27] []) 1 ({ r0 with a := 0x83, f := 0x00, pc := 0xC001 }) [] = true := by decide +kernel
theorem test_daa_L2_ALU_26 :
    ran (start ({ r0 with a := 0x0D, f := 0x60 }) [0x27] []) 1 ({ r0 with a := 0x07, f := 0x40, pc := 0xC001 }) [] = true := by decide +kernel
theorem test_cpl_L2_ALU_30 :
    ran (start ({ r0 with a := 0x35, f := 0x90 }) [0x2F] []) 1 ({ r0 with a := 0xCA, f := 0xF0, pc := 0xC001 }) [] = true := by decide +kernel
theorem test_scf_L2_ALU_31 :
    ran (start ({ r0 with f := 0xE0 }) [0x37] []) 1 ({ r0 with f := 0x90, pc := 0xC001 }) [] = true := by decide +kernel
theorem test_ccf_L2_ALU_32 :
    ran (start ({ r0 with f := 0x10 }) [0x3F] []) 1 ({ r0 with f := 0x00, pc := 0xC001 }) [] = true := by decide +kernel
theorem test_ccf_L2_ALU_33 :
    ran (start ({ r0 with f := 0x80 }) [0x3F] []) 1 ({ r0 with f := 0x90, pc := 0xC001 }) [] = true := by decide +kernel
theorem test_inc_bc_L2_A16_1 :
    ran (start ({ r0 with b := 0xFF, c := 0xFF }) [0x03] []) 2 ({ r0 with b := 0x00, c := 0x00, pc := 0xC001 }) [] = true := by decide +kernel
theorem test_dec_bc_L2_A16_2 :
    ran (start ({ r0 with b := 0x00, c := 0x00 }) [0x0B] []) 2 ({ r0 with b := 0xFF, c := 0xFF, pc := 0xC001 }) [] = true := by decide +kernel
theorem test_inc_de_L2_A16_3 :
    ran (start ({ r0 with d := 0x00, e := 0xFF }) [0x13] []) 2 ({ r0 with d := 0x01, e := 0x00, pc := 0xC001 }) [] = true := by decide +kernel
theorem test_add_hl_bc_L2_A16_4 :
    ran (start ({ r0 with h := 0x8A, l := 0x23, b := 0x06, c := 0x05 }) [0x09] []) 2 ({ r0 with h := 0x90, l := 0x28, b := 0x06, c := 0x05, f := 0x20, pc := 0xC001 }) [] = true := by decide +kernel
theorem test_add_hl_hl_L2_A16_5 :
    ran (start ({ r0 with h := 0x8A, l := 0x23 }) [0x29] []) 2 ({ r0 with h := 0x14, l := 0x46, f := 0x30, pc := 0xC001 }) [] = true := by decide +kernel
theorem test_add_hl_sp_L2_A16_6 :
    ran (start ({ r0 with h := 0xFF, l := 0xFF, sp := 0x0001, f := 0x80 }) [0x39] []) 2 ({ r0 with h := 0x00, l := 0x00, sp := 0x0001, f := 0xB0, pc := 0xC001 }) [] = true := by decide +kernel
theorem test_add_hl_de_L2_A16_7 :
    ran (start ({ r0 with h := 0x0F, l := 0xFF, d := 0x00, e := 0x01 }) [0x19] []) 2 ({ r0 with h := 0x10, l := 0x00, d := 0x00, e := 0x01, f := 0x20, pc := 0xC001 }) [] = true := by decide +kernel
theorem test_add_sp_e8_L2_A16_8 :
    ran (start ({ r0 with sp := 0xFFF8 }) [0xE8, 0x02] []) 4 ({ r0 with sp := 0xFFFA, pc := 0xC002 }) [] = true := by decide +kernel
theorem test_add_sp_e8_L2_A16_9 :
    ran (start ({ r0 with sp := 0x0000 }) [0xE8, 0xFF] []) 4 ({ r0 with sp := 0xFFFF, pc := 0xC002 }) [] = true := by decide +kernel
theorem test_ld_hl_spince8_L2_A16_12 :
    ran (start ({ r0 with sp := 0x00FF }) [0xF8, 0x01] []) 3 ({ r0 with sp := 0x00FF, f := 0x30, h := 0x01, pc := 0xC002 }) [] = true := by decide +kernel
theorem test_ld_hl_spince8_L2_A16_13 :
    ran (start ({ r0 with sp := 0xDFF0, f := 0xF0 }) [0xF8, 0x00] []) 3 ({ r0 with sp := 0xDFF0, f := 0x00, h := 0xDF, l := 0xF0, pc := 0xC002 }) [] = true := by decide +kernel
theorem test_inc_sp_L2_A16_14 :
    ran (start ({ r0 with sp := 0xFFFF }) [0x33] []) 2 ({ r0 with sp := 0x0000, pc := 0xC001 }) [] = true := by decide +kernel
theorem test_rlca_L2_BIT_1 :
    ran (start ({ r0 with a := 0x85 }) [0x07] []) 1 ({ r0 with a := 0x0B, f := 0x10, pc := 0xC001 }) [] = true := by decide +kernel
theorem test_rlca_L2_BIT_2 :
    ran (start ({ r0 with a := 0x00, f := 0x80 }) [0x07] []) 1 ({ r0 with a := 0x00, f := 0x00, pc := 0xC001 }) [] = true := by decide +kernel
theorem test_rrca_L2_BIT_3 :
    ran (start ({ r0 with a := 0x01 }) [0x0F] []) 1 ({ r0 with a := 0x80, f := 0x10, pc := 0xC001 }) [] = true := by decide +kernel
theorem test_rla_L2_BIT_4 :
    ran (start ({ r0 with a := 0x95, f := 0x10 }) [0x17] []) 1 ({ r0 with a := 0x2B, f := 0x10, pc := 0xC001 }) [] = true := by decide +kernel
theorem test_rla_L2_BIT_5 :
    ran (start ({ r0 with a := 0x80 }) [0x17] []) 1 ({ r0 with a := 0x00, f := 0x10, pc := 0xC001 }) [] = true := by decide +kernel
theorem test_rra_L2_BIT_6 :
    ran (start ({ r0 with a := 0x01 }) [0x1F] []) 1 ({ r0 with a := 0x00, f := 0x10, pc := 0xC001 }) [] = true := by decide +kernel
theorem test_rlc_b_L2_BIT_7 :
    ran (start ({ r0 with b := 0x85 }) [0xCB, 0x00] []) 2 ({ r0 with b := 0x0B, f := 0x10, pc := 0xC002 }) [] = true := by decide +kernel
theorem test_rrc_c_L2_BIT_8 :
    ran (start ({ r0 with c := 0x01 }) [0xCB, 0x09] []) 2 ({ r0 with c := 0x80, f := 0x10, pc := 0xC002 }) [] = true := by decide +kernel
theorem test_rl_d_L2_BIT_9 :
    ran (start ({ r0 with d := 0x80 }) [0xCB, 0x12] []) 2 ({ r0 with d := 0x00, f := 0x90, pc := 0xC002 }) [] = true := by decide +kernel
theorem test_rr_e_L2_BIT_10 :
    ran (start ({ r0 with e := 0x01, f := 0x10 }) [0xCB, 0x1B] []) 2 ({ r0 with e := 0x80, f := 0x10, pc := 0xC002 }) [] = true := by decide +kernel
theorem test_sla_h_L2_BIT_11 :
    ran (start ({ r0 with h := 0xC0 }) [0xCB, 0x24] []) 2 ({ r0 with h := 0x80, f := 0x10, pc := 0xC002 }) [] = true := by decide +kernel
theorem test_sra_l_L2_BIT_12 :
    ran (start ({ r0 with l := 0x81 }) [0xCB, 0x2D] []) 2 ({ r0 with l := 0xC0, f := 0x10, pc := 0xC002 }) [] = true := by decide +kernel
theorem test_swap_a_L2_BIT_13 :
    ran (start ({ r0 with a := 0xF1 }) [0xCB, 0x37] []) 2 ({ r0 with a := 0x1F, pc := 0xC002 }) [] = true := by decide +kernel
theorem test_swap_a_L2_BIT_14 :
    ran (start ({ r0 with a := 0x00 }) [0xCB, 0x37] []) 2 ({ r0 with a := 0x00, f := 0x80, pc := 0xC002 }) [] = true := by decide +kernel
theorem test_srl_a_L2_BIT_15 :
    ran (start ({ r0 with a := 0x01 }) [0xCB, 0x3F] []) 2 ({ r0 with a := 0x00, f := 0x90, pc := 0xC002 }) [] = true := by decide +kernel
theorem test_bit_7_a_L2_BIT_16 :
    ran (start ({ r0 with a := 0x80, f := 0x10 }) [0xCB, 0x7F] []) 2 ({ r0 with a := 0x80, f := 0x30, pc := 0xC002 }) [] = true := by decide +kernel
theorem test_bit_6_a_L2_BIT_17 :
    ran (start ({ r0 with a := 0x80 }) [0xCB, 0x77] []) 2 ({ r0 with a := 0x80, f := 0xA0, pc := 0xC002 }) [] = true := by decide +kernel
theorem test_bit_0_hl_L2_BIT_18 :
    ran (start ({ r0 with h := 0xC1, l := 0x00 }) [0xCB, 0x46] [(0xC100, 0xFE)]) 3 ({ r0 with h := 0xC1, l := 0x00, f := 0xA0, pc := 0xC002 }) [] = true := by decide +kernel
theorem test_res_0_a_L2_BIT_19 :
    ran (start ({ r0 with a := 0xFF }) [0xCB, 0x87] []) 2 ({ r0 with a := 0xFE, pc := 0xC002 }) [] = true := by decide +kernel
theorem test_set_7_hl_L2_BIT_20 :
    ran (start ({ r0 with h := 0xC1, l := 0x00 }) [0xCB, 0xFE] [(0xC100, 0x00)]) 4 ({ r0 with h := 0xC1, l := 0x00, pc := 0xC002 }) [(0xC100, 0x80)] = true := by decide +kernel
theorem test_rl_hl_L2_BIT_21 :
    ran (start ({ r0 with h := 0xC1, l := 0x00, f := 0x10 }) [0xCB, 0x16] [(0xC100, 0x80)]) 4 ({ r0 with h := 0xC1, l := 0x00, f := 0x10, pc := 0xC002 }) [(0xC100, 0x01)] = true := by decide +kernel
theorem test_rlc_hl_L2_BIT_22 :
    ran (start ({ r0 with h := 0xC1, l := 0x00 }) [0xCB, 0x06] [(0xC100, 0x00)]) 4 ({ r0 with h := 0xC1, l := 0x00, f := 0x80, pc := 0xC002 }) [(0xC100, 0x00)] = true := by decide +kernel
theorem test_swap_hl_L2_BIT_23 :
    ran (start ({ r0 with h := 0xC1, l := 0x00 }) [0xCB, 0x36] [(0xC100, 0xAB)]) 4 ({ r0 with h := 0xC1, l := 0x00, pc := 0xC002 }) [(0xC100, 0xBA)] = true := by decide +kernel
theorem test_jp_a16_L2_CTL_1 :
    ran (start r0 [0xC3, 0x50, 0x01] []) 4 ({ r0 with pc := 0x0150 }) [] = true := by decide +kernel
theorem test_jp_nz_a16_L2_CTL_2 :
    ran (start ({ r0 with f := 0x80 }) [0xC2, 0x50, 0x01] []) 3 ({ r0 with f := 0x80, pc := 0xC003 }) [] = true := by decide +kernel
theorem test_jp_nz_a16_L2_CTL_3 :
    ran (start ({ r0 with f := 0x00 }) [0xC2, 0x50, 0x01] []) 4 ({ r0 with f := 0x00, pc := 0x0150 }) [] = true := by decide +kernel
theorem test_jp_c_a16_L2_CTL_4 :
    ran (start ({ r0 with f := 0x10 }) [0xDA, 0x50, 0x01] []) 4 ({ r0 with f := 0x10, pc := 0x0150 }) [] = true := by decide +kernel
theorem test_jp_hl_L2_CTL_5 :
    ran (start ({ r0 with h := 0x40, l := 0x00 }) [0xE9] []) 1 ({ r0 with h := 0x40, l := 0x00, pc := 0x4000 }) [] = true := by decide +kernel
theorem test_jr_e8_L2_CTL_6 :
    ran (start r0 [0x18, 0xFE] []) 3 ({ r0 with pc := 0xC000 }) [] = true := by decide +kernel
theorem test_jr_e8_L2_CTL_8 :
    ran (start r0 [0x18, 0x80] []) 3 ({ r0 with pc := 0xBF82 }) [] = true := by decide +kernel
theorem test_jr_nz_e8_L2_CTL_9 :
    ran (start ({ r0 with f := 0x00 }) [0x20, 0xFB] []) 3 ({ r0 with f := 0x00, pc := 0xBFFD }) [] = true := by decide +kernel
theorem test_jr_nz_e8_L2_CTL_10 :
    ran (start ({ r0 with f := 0x80 }) [0x20, 0xFB] []) 2 ({ r0 with f := 0x80, pc := 0xC002 }) [] = true := by decide +kernel
theorem test_jr_c_e8_L2_CTL_11 :
    ran (start ({ r0 with f := 0x10 }) [0x38, 0x05] []) 3 ({ r0 with f := 0x10, pc := 0xC007 }) [] = true := by decide +kernel
theorem test_call_a16_L2_CTL_12 :
    ran (start ({ r0 with sp := 0xDFF0 }) [0xCD, 0x00, 0x40] []) 6 ({ r0 with sp := 0xDFEE, pc := 0x4000 }) [(0xDFEF, 0xC0), (0xDFEE, 0x03)] = true := by decide +kernel
theorem test_call_nz_a16_L2_CTL_13 :
    ran (start ({ r0 with f := 0x80, sp := 0xDFF0 }) [0xC4, 0x00, 0x40] []) 3 ({ r0 with f := 0x80, sp := 0xDFF0, pc := 0xC003 }) [] = true := by decide +kernel
theorem test_call_c_a16_L2_CTL_14 :
    ran (start ({ r0 with f := 0x10, sp := 0xDFF0 }) [0xDC, 0x00, 0x40] []) 6 ({ r0 with f := 0x10, sp := 0xDFEE, pc := 0x4000 }) [(0xDFEF, 0xC0), (0xDFEE, 0x03)] = true := by decide +kernel
theorem test_ret_L2_CTL_15 :
    ran (start ({ r0 with sp := 0xDFEE }) [0xC9] [(0xDFEE, 0x03), (0xDFEF, 0x02)]) 4 ({ r0 with sp := 0xDFF0, pc := 0x0203 }) [] = true := by decide +kernel
theorem test_ret_z_L2_CTL_16 :
    ran (start ({ r0 with f := 0x80, sp := 0xDFEE }) [0xC8] [(0xDFEE, 0x03), (0xDFEF, 0x02)]) 5 ({ r0 with f := 0x80, sp := 0xDFF0, pc := 0x0203 }) [] = true := by decide +kernel
theorem test_ret_z_L2_CTL_17 :
    ran (start ({ r0 with f := 0x00, sp := 0xDFEE }) [0xC8] [(0xDFEE, 0x03), (0xDFEF, 0x02)]) 2 ({ r0 with f := 0x00, sp := 0xDFEE, pc := 0xC001 }) [] = true := by decide +kernel
theorem test_reti_L2_CTL_18 :
    ran ({ start ({ r0 with sp := 0xDFEE }) [0xD9] [(0xDFEE, 0x03), (0xDFEF, 0x02)] with cpu.ime := false }) 4 ({ r0 with sp := 0xDFF0, pc := 0x0203 }) [] = true
      ∧ ends ({ start ({ r0 with sp := 0xDFEE }) [0xD9] [(0xDFEE, 0x03), (0xDFEF, 0x02)] with cpu.ime := false }) (fun t => t.cpu.ime == true) = true := by decide +kernel
theorem test_rst_0x38_L2_CTL_19 :
    ran (start ({ r0 with sp := 0xDFF0 }) [0xFF] []) 4 ({ r0 with sp := 0xDFEE, pc := 0x0038 }) [(0xDFEF, 0xC0), (0xDFEE, 0x01)] = true := by decide +kernel
theorem test_rst_0x28_L2_CTL_20 :
    ran (start ({ r0 with sp := 0xDFF0 }) [0xEF] []) 4 ({ r0 with sp := 0xDFEE, pc := 0x0028 }) [(0xDFEF, 0xC0), (0xDFEE, 0x01)] = true := by decide +kernel
theorem test_nop_L2_SYS_1 :
    ran (start ({ r0 with f := 0xB0 }) [0x00] []) 1 ({ r0 with f := 0xB0, pc := 0xC001 }) [] = true := by decide +kernel
theorem test_di_L2_SYS_2 :
    ran ({ start r0 [0xF3] [] with cpu.ime := true }) 1 ({ r0 with pc := 0xC001 }) [] = true
      ∧ ends ({ start r0 [0xF3] [] with cpu.ime := true }) (fun t => t.cpu.ime == false) = true := by decide +kernel
theorem test_di_L2_SYS_3 :
    ran ({ start r0 [0xF3] [] with cpu.eiDelay := 2 }) 1 ({ r0 with pc := 0xC001 }) [] = true
      ∧ ends ({ start r0 [0xF3] [] with cpu.eiDelay := 2 }) (fun t => t.cpu.eiDelay == 0) = true := by decide +kernel
theorem test_ei_L2_SYS_4 :
    ran (start r0 [0xFB] []) 1 ({ r0 with pc := 0xC001 }) [] = true
      ∧ ends (start r0 [0xFB] []) (fun t => t.cpu.eiDelay == 2) = true := by decide +kernel
theorem test_halt_L2_SYS_5 :
    ran (start r0 [0x76] []) 1 ({ r0 with pc := 0xC001 }) [] = true
      ∧ ends (start r0 [0x76] []) (fun t => t.cpu.halted == true) = true := by decide +kernel
theorem test_halt_L2_SYS_6 :
    ran ({ start r0 [0x76] [] with irq.ie := 0x04, irq.ifl := 0x04 }) 1 ({ r0 with pc := 0xC001 }) [] = true
      ∧ ends ({ start r0 [0x76] [] with irq.ie := 0x04, irq.ifl := 0x04 }) (fun t => t.cpu.haltBug == true) = true := by decide +kernel
theorem test_ei_L2_SYS_8 :
    ran ({ start r0 [0xFB] [] with cpu.eiDelay := 2 }) 1 ({ r0 with pc := 0xC001 }) [] = true
      ∧ ends ({ start r0 [0xFB] [] with cpu.eiDelay := 2 }) (fun t => t.cpu.eiDelay == 1) = true := by decide +kernel

/-! ### System instructions, interrupts and stops (45_system.md, 60_exceptions.md; L2-SYS, L2-INT) -/

/-- The default start state with IE and IF. -/
def irqs (s : State) (ie : Byte) (ifl : BitVec 5) : State := { s with irq := { ie := ie, ifl := ifl } }

theorem test_stop_refused :
    (match step (start r0 [0x10, 0x00] []) with | .refused (.stopNotModelled a) => a == 0xC000 | _ => false) = true := by
  decide +kernel
theorem test_illegal_DD_faults :
    (match step (start r0 [0xDD] []) with | .fault (.unknownOpcode a b p) => a == 0xC000 && b == 0xDD && p == 0xC001 | _ => false)
      = true := by decide +kernel
theorem test_illegal_D3_faults :
    (match step (start r0 [0xD3] []) with | .fault (.unknownOpcode a b p) => a == 0xC000 && b == 0xD3 && p == 0xC001 | _ => false)
      = true := by decide +kernel
/-- After a stop the recorded reason answers. -/
theorem test_stop_is_recorded :
    (match step (afterTick (start r0 [0xDD] [])) with | .fault (.unknownOpcode a _ _) => a == 0xC000 | _ => false) = true := by
  decide +kernel
theorem test_interrupt_entry_pushes_and_vectors :
    let s := { irqs base 5 5 with cpu.ime := true, regs := { r0 with pc := 0x0150, sp := 0xFFFE } }
    ran s 5 { r0 with pc := 0x0040, sp := 0xFFFC } [(0xFFFD, 0x01), (0xFFFC, 0x50)] = true
      ∧ ends s (fun t => t.irq.ifl == 4 && !t.cpu.ime) = true := by decide +kernel
theorem test_interrupt_cancelled_by_its_push :
    let s := { irqs base 1 1 with cpu.ime := true, regs := { r0 with pc := 0x1234, sp := 0x0000 } }
    ran s 5 { r0 with pc := 0x0000, sp := 0xFFFE } [(0xFFFF, 0x12), (0xFFFE, 0x34)] = true
      ∧ ends s (fun t => t.irq.ifl == 1 && t.cpu.opcode == .intCancelled) = true := by decide +kernel
theorem test_interrupt_source_chosen_again :
    let s := { irqs base 3 3 with cpu.ime := true, regs := { r0 with pc := 0x1234, sp := 0x0000 } }
    ends s (fun t => t.regs.pc == 0x0048 && t.irq.ifl == 1) = true := by decide +kernel
theorem test_halt_bug_reads_a_byte_twice :
    let s := { start r0 [0x3E, 0x14] [] with cpu.haltBug := true }
    ran s 2 { r0 with a := 0x3E, pc := 0xC001 } [] = true ∧ ends s (fun t => !t.cpu.haltBug) = true := by decide +kernel
theorem test_halting_waits : ends { base with cpu.halted := true } (fun t => t.cpu.opcode == .halting && t.cpu.halted && t.cpu.cpuWait == 3) = true := by
  decide +kernel
theorem test_halt_wakes_without_ime :
    ends { irqs (start r0 [0x3C] []) 4 4 with cpu.halted := true } (fun t => !t.cpu.halted && t.regs.a == 1 && t.irq.ifl == 4) = true := by
  decide +kernel
theorem test_ei_takes_effect_one_instruction_late :
    let s := irqs (start r0 [0xFB, 0x00, 0x00] []) 1 1
    ((after s 4).cpu.eiDelay == 2 && (after s 8).cpu.eiDelay == 1 && (after s 8).regs.pc == 0xC002 && (after s 9).regs.pc == 0x0040) = true := by
  decide +kernel
theorem test_prefix_meaning : (match exec .prefixCb (start { r0 with a := 0xF1 } [0x37] []) with | .next t => t.regs.a == 0x1F | _ => false) = true := by
  decide +kernel

/-! ### The bus (L1-1, L1-10) -/

theorem test_bus_decode :
    (busDecode 0x0000 true == (.boot, 0) && busDecode 0x0000 false == (.romA, 0) && busDecode 0x0100 true == (.romA, 0x100)
      && busDecode 0x7FFF true == (.romB, 0x3FFF) && busDecode 0xFDFF false == (.wram1, 0xDFF) && busDecode 0xFE9F false == (.oam, 0x9F)
      && busDecode 0xFEA0 false == (.unmapped, 0) && busDecode 0xFF7F false == (.io, 0x7F) && busDecode 0xFFFE false == (.hram, 0x7E)
      && busDecode 0xFFFF false == (.ie, 0)) = true := by decide +kernel
theorem test_bank_zero_is_bank_one :
    let s := { base with cart := .bank5 1 }
    ((s.store 0x2000 0x05).cart == .bank5 5 && ((s.store 0x2000 0x05).store 0x3FFF 0x20).cart == .bank5 1) = true := by decide +kernel
/-- The controller of L1-10 as a controller record: a bank register at 0x2000..0x3FFF with the 0 → 1 rule. -/
def bank5Record : CartRecord :=
  let low := CartExpr.op .and .value (.const 0x1F)
  { romBankA := .const 0, romBankB := .state, sramBank := .const 0, ramPresent := .const 0, ramEnabled := .const 0
    store := .ifLt .addr (.const 0x2000) .state (.ifLt .addr (.const 0x4000) (.ifLt low (.const 1) (.const 1) low) .state) }
/-- The image of L1-10: the first byte of bank k of four is 0x10 + k (L1-10). -/
def fourBanks : State :=
  { base with bus.cartRomLen := 65536, bus.cartRom := [(0, 0x10), (16384, 0x11), (32768, 0x12), (49152, 0x13)], cart := .given bank5Record 1 }
theorem test_store_hook_selects_bank :
    let s := fourBanks.store 0x2000 0x05
    (s.loadVal 0x4000 == 0x11 && (s.store 0x3FFF 0x00).loadVal 0x4000 == 0x11 && (s.store 0x2000 0x06).loadVal 0x4000 == 0x12
      && (s.store 0x4000 0x06).loadVal 0x4000 == 0x11 && (s.store 0x1FFF 0x06).loadVal 0x4000 == 0x11 && s.cart.answers.romBankB == 5
      && s.loadVal 0x0000 == 0x10) = true := by decide +kernel
/-- A controller whose RAM is present and enabled, with bank 3. -/
def withRam : State := { base with cart := .external { romBankA := 0, romBankB := 5, sramBank := 3, ramPresent := true, ramEnabled := true } }
theorem test_register_masks :
    (base.loadVal 0xFF07 == 0xF8 && base.loadVal 0xFF0F == 0xE0 && base.loadVal 0xFF41 == 0x84 && base.loadVal 0xFF50 == 0xFF) = true := by
  decide +kernel

/-! ### Timer, pixel pipeline, DMA (L1-6, L1-7, L1-9, L2-PPU, L2-DMA) -/

/-- The default start state with a timer: counter, TAC, TIMA, TMA. -/
def timed (counter : Word) (tac : BitVec 3) (tima tma : Byte) : State :=
  let t : Timer := { counter := counter, tima := tima, tma := tma, tac := tac, phase := .idle, signal := false }
  { base with timer := { t with signal := t.signalNow } }

/-- The default start state with the LCD on at this place of the frame. -/
def lcdAt (line dot : Nat) (mode : PpuMode) : State :=
  { base with lcd.lcdc := 0x91, lcd.bgp := 0xE4, ppu := { base.ppu with on := true, line := line, dot := dot, mode := mode } }

theorem test_timer_falling_edge : ((timerTick (timed 0x000F 5 0 0)).timer.tima == 1 && (timerTick (timed 0x0008 5 0 0)).timer.tima == 0) = true := by
  decide +kernel
theorem test_timer_div_store_makes_edge : (((timed 0x0008 5 0 0).store 0xFF04 9).timer.tima == 1) = true := by decide +kernel
theorem test_timer_reload_after_four_ticks :
    let s := timed 0x000F 5 0xFF 0x80
    ((timerTick^[4] s).timer.tima == 0 && (timerTick^[5] s).timer.tima == 0x80 && (timerTick^[4] s).irq.ifl == 0 && (timerTick^[5] s).irq.ifl == 4) = true := by
  decide +kernel
theorem test_vblank_request : ((ppuStep (lcdAt 144 0 .vblank)).irq.ifl == 1 && (ppuStep (lcdAt 143 455 .hblank)).irq.ifl == 0) = true := by
  decide +kernel
/-- The window starts once the line, the column and the two LCDC bits hold, and the queue is emptied (R222, R224). -/
theorem test_window_starts :
    let p := { (lcdAt 5 100 .draw).ppu with wyLatch := true, bgFifo := [1, 2], discard := 3, fetch.stage := 4 }
    let at0 := (p.drawDot { base.lcd with lcdc := 0xB1, wx := 7 } base.peek).1
    let late := (p.drawDot { base.lcd with lcdc := 0xB1, wx := 8 } base.peek).1
    (at0.winActive && at0.fetch.src == .win && at0.fetch.stage == 1 && at0.bgFifo == [] && at0.discard == 0
      && !late.winActive && late.bgFifo == [2] && late.discard == 2 && late.lx == 0) = true := by decide +kernel
theorem test_pixel_priority :
    let r := { base.lcd with lcdc := 0x01, bgp := 0xE4, obp0 := 0x1B, obp1 := 0x4E }
    (mix r 0 { c := 1, pal := false, prio := true } == 2 && mix r 1 { c := 1, pal := false, prio := true } == 1
      && mix r 1 { c := 1, pal := false, prio := false } == 2 && mix r 3 { c := 3, pal := true, prio := false } == 1
      && mix { r with lcdc := 0 } 2 { c := 0, pal := false, prio := false } == 0) = true := by decide +kernel
theorem test_dma_first_byte :
    let s := (put base [(0xC000, 0x5A)]).store 0xFF46 0xC0
    ((dmaTick^[4] s).dma.index == 0 && (dmaTick^[5] s).dma.index == 1 && (dmaTick^[5] s).peek 0xFE00 == 0x5A) = true := by decide +kernel

/-! ### Witnesses: for each statement with premises, states and operands that meet them -/

theorem next_of_ends {s : State} {p : State → Bool} (h : ends s p = true) : ∃ t, step s = .next t ∧ p t = true := by
  unfold ends at h
  split at h
  · next t e => exact ⟨t, e, h⟩
  · exact absurd h (by simp)
  · exact absurd h (by simp)

/-- An answer is a next state. -/
def isNext : Out → Bool
  | .next _ => true
  | _ => false

/-- An answer is a fault. -/
def isFault : Out → Bool
  | .fault _ => true
  | _ => false

/-- An answer is a refusal. -/
def isRefused : Out → Bool
  | .refused _ => true
  | _ => false

theorem next_of_isNext {o : Out} (h : isNext o = true) : ∃ t, o = .next t := by
  cases o with
  | next t => exact ⟨t, rfl⟩
  | fault f => exact absurd h (by simp [isNext])
  | refused r => exact absurd h (by simp [isNext])

theorem fault_of_isFault {o : Out} (h : isFault o = true) : ∃ f, o = .fault f := by
  cases o with
  | next t => exact absurd h (by simp [isFault])
  | fault f => exact ⟨f, rfl⟩
  | refused r => exact absurd h (by simp [isFault])

theorem refused_of_isRefused {o : Out} (h : isRefused o = true) : ∃ r, o = .refused r := by
  cases o with
  | next t => exact absurd h (by simp [isRefused])
  | fault f => exact absurd h (by simp [isRefused])
  | refused r => exact ⟨r, rfl⟩

theorem base_memInv : MemInv base := by unfold MemInv; decide +kernel
/-- The state of the last test of a drawn pixel: the first pixel of line 0 is in the queue. -/
def drawing : State :=
  { lcdAt 0 100 .draw with ppu := { base.ppu with on := true, dot := 100, mode := .draw, bgFifo := List.replicate 8 3, fetch.stage := 5 } }
theorem base_inv : Inv base where
  flags := by unfold FlagInv; decide +kernel
  cpu := by unfold CpuInv; decide +kernel
  memory := base_memInv
  timer := ⟨rfl, trivial⟩
  ppu := by unfold PpuInv; decide +kernel
  dma := by unfold DmaInv; decide +kernel
theorem drawing_inv : Inv drawing where
  flags := by unfold FlagInv; decide +kernel
  cpu := by unfold CpuInv; decide +kernel
  memory := by unfold MemInv; decide +kernel
  timer := ⟨rfl, trivial⟩
  ppu := by unfold PpuInv; decide +kernel
  dma := by unfold DmaInv; decide +kernel

theorem witness_DecodeOfEncode : (Instr.ldAtHlN8 0x5A).wellFormed = true ∧ (Instr.bitBR 7 .a).wellFormed = true := by decide
theorem witness_EncodeOfDecode :
    decode [0x36, 0x5A, 0x07] = .ok (.ldAtHlN8 0x5A, [0x07]) ∧ decode [0xCB] = .ok (.prefixCb, []) := ⟨rfl, rfl⟩
theorem witness_Tick_next : base.stopped = none ∧ base.cpu.cpuWait = 0 ∧ ∃ t, cpuStep base = .next t :=
  ⟨rfl, rfl, next_of_isNext (by decide +kernel)⟩
theorem witness_Tick_fault : (start r0 [0xFD] []).stopped = none ∧ ∃ f, cpuStep (start r0 [0xFD] []) = .fault f :=
  ⟨rfl, fault_of_isFault (by decide +kernel)⟩
theorem witness_Tick_refused : (start r0 [0x10] []).stopped = none ∧ ∃ r, cpuStep (start r0 [0x10] []) = .refused r :=
  ⟨rfl, refused_of_isRefused (by decide +kernel)⟩
theorem witness_Tick_waiting : { base with cpu.cpuWait := 23 }.cpu.cpuWait > 0 := by decide
theorem witness_Tick_stopped :
    (afterTick (start r0 [0xFD] [])).cpu.fault = some (.unknownOpcode 0xC000 0xFD 0xC001)
      ∧ (afterTick (start r0 [0x10] [])).cpu.fault = none ∧ (afterTick (start r0 [0x10] [])).cpu.refused = some (.stopNotModelled 0xC000) := by
  decide +kernel

/-- The premises of `StepRunsDecodedInstruction`. -/
def canFetch (s : State) (i : Instr) (rest : List Byte) : Prop :=
  let w := (beginCycle s).woken
  s.stopped = none ∧ s.cpu.cpuWait = 0 ∧ (beginCycle s).dispatches = false ∧ w.cpu.halted = false ∧ s.cpu.haltBug = false
    ∧ decode [w.fetchVal, w.afterFetch.fetchVal, w.afterFetch.afterFetch.fetchVal] = .ok (i, rest)

theorem witness_StepRuns_plain :
    canFetch (start r0 [0x3E, 0x5A] []) (.ldAN8 0x5A) [0] ∧ ∃ t, exec (.ldAN8 0x5A) (start r0 [0x3E, 0x5A] []) = .next t :=
  ⟨by unfold canFetch; decide +kernel, next_of_isNext (by decide +kernel)⟩
theorem witness_StepRuns_prefixed : canFetch (start r0 [0xCB, 0x37] []) (.swapR .a) [0] := by unfold canFetch; decide +kernel
theorem witness_StepRuns_three_bytes : canFetch (start r0 [0xCD, 0x34, 0x12] []) (.callA16 0x1234) [] := by unfold canFetch; decide +kernel
theorem witness_StepRuns_refused :
    canFetch (start r0 [0x10] []) (.stop 0) [0] ∧ ∃ r, exec (.stop 0) (start r0 [0x10] []) = .refused r :=
  ⟨by unfold canFetch; decide +kernel, refused_of_isRefused (by decide +kernel)⟩
theorem witness_StepRuns_fault :
    canFetch (start r0 [0xED] []) .illegalED [0, 0] ∧ ∃ f, exec .illegalED (start r0 [0xED] []) = .fault f :=
  ⟨by unfold canFetch; decide +kernel, fault_of_isFault (by decide +kernel)⟩
theorem witness_StepRuns_woken : canFetch { irqs (start r0 [0x3C] []) 4 4 with cpu.halted := true } .incA [0, 0] := by
  unfold canFetch; decide +kernel

theorem witness_HaltBug :
    let s := { start r0 [0x3E, 0x14] [] with cpu.haltBug := true }
    let w : State := { (beginCycle s).afterLoad s.regs.pc with cpu.haltBug := false }
    s.cpu.haltBug = true ∧ s.cpu.halted = false ∧ (beginCycle s).dispatches = false
      ∧ decode [(beginCycle s).fetchVal, w.fetchVal, w.afterFetch.fetchVal] = .ok (.ldAN8 0x3E, [0x14]) := by decide +kernel
theorem witness_InterruptEntry :
    let s := { irqs base 5 5 with cpu.ime := true }
    s.stopped = none ∧ s.cpu.cpuWait = 0 ∧ (beginCycle s).dispatches = true
      ∧ lowestIrq (({ beginCycle s with cpu.ime := false, regs.sp := s.regs.sp - 1 } : State).store (s.regs.sp - 1) (hiByte s.regs.pc)).pending = some .vblank := by
  decide +kernel
theorem witness_InterruptEntry_cancelled :
    let s := { irqs base 1 1 with cpu.ime := true, regs := { r0 with pc := 0x1234, sp := 0x0000 } }
    s.stopped = none ∧ s.cpu.cpuWait = 0 ∧ (beginCycle s).dispatches = true
      ∧ (({ beginCycle s with cpu.ime := false, regs.sp := s.regs.sp - 1 } : State).store (s.regs.sp - 1) (hiByte s.regs.pc)).pending = 0 := by
  decide +kernel
theorem witness_LowestPending :
    lowestIrq (irqs base 0x1F 0x18).pending = some .serial ∧ lowestIrq (irqs base 0x0F 0x10).pending = none ∧ (irqs base 0x0F 0x10).pending = 0 := by
  decide +kernel
theorem witness_ReturnComesBack :
    MemInv base ∧ (ramKey (base.regs.sp - 1)).isSome = true ∧ (ramKey (base.regs.sp - 2)).isSome = true
      ∧ base.vramLocked = false ∧ base.oamLocked = false := ⟨base_memInv, by decide +kernel⟩

theorem witness_System_delays :
    base.cpu.eiDelay = 0 ∧ { base with cpu.eiDelay := 1 }.cpu.eiDelay = 1 ∧ { base with cpu.eiDelay := 2 }.cpu.eiDelay = 0 + 2
      ∧ { base with cpu.eiDelay := 2 }.cpu.eiDelay ≠ 0 := by decide
theorem witness_System_halt :
    (irqs base 4 4).cpu.ime = false ∧ (irqs base 4 4).pending ≠ 0 ∧ base.pending = 0 ∧ { base with cpu.ime := true }.cpu.ime = true := by
  decide +kernel
theorem witness_System_select :
    (let s := { base with cpu.halted := true }; s.dispatches = false ∧ s.cpu.halted = true ∧ s.pending = 0)
      ∧ (let s := { irqs base 4 4 with cpu.halted := true }; s.cpu.ime = false ∧ s.cpu.halted = true ∧ s.pending ≠ 0)
      ∧ (let s := { irqs base 4 4 with cpu.ime := true }; s.cpu.ime = true ∧ s.pending ≠ 0) := by decide +kernel
theorem witness_OnlyStop : (Instr.stop 0).stops = true ∧ Instr.illegalD3.stops = true ∧ Instr.nop.stops = false := by decide
theorem witness_Costs : Instr.incB ≠ .prefixCb ∧ (∃ t, exec .incB base = .next t) ∧ ∃ t, exec .prefixCb base = .next t :=
  ⟨by decide, next_of_isNext (by decide +kernel), next_of_isNext (by decide +kernel)⟩
theorem witness_Flags : ∃ t, exec (.cpAN8 0x3C) base = .next t := next_of_isNext (by decide +kernel)
theorem witness_RegisterFrame :
    (∃ t, exec (.ldHlSpE8 0xFF) base = .next t) ∧ Reg8.a ∉ (Instr.ldHlSpE8 0xFF).destRegs ∧ (Instr.ldHlSpE8 0xFF).movesSp = false
      ∧ (Instr.ldHlSpE8 0xFF).movesPc = false := ⟨next_of_isNext (by decide +kernel), by decide⟩
theorem stores_ld_a16_sp : storesTo (.ldAtA16Sp 0xC0FF) base = [0xC0FF, 0xC100] := rfl
theorem stores_ldh_a8 : storesTo (.ldhAtA8A 0x04) base = [0xFF04] := rfl
theorem reaches_none (a b : Word) (h1 : a ≠ b) (h2 : ramKey a = none ∨ ramKey a ≠ ramKey b) (h3 : 0x7FFF < a.toNat) (h4 : b.toNat ≠ 0xFF05)
    (h5 : 0xFF < b.toNat) : ¬ storeReaches a b := by
  rintro (h | ⟨k, h⟩ | ⟨h, _⟩ | ⟨_, h⟩ | ⟨_, h⟩)
  · exact h1 h
  · exact h2.elim (fun e => k e) (fun e => e h)
  · omega
  · exact h4 h
  · omega
theorem witness_MemoryFrame_ram :
    MemInv base ∧ (∃ t, exec (.ldAtA16Sp 0xC0FF) base = .next t) ∧ (∀ a ∈ storesTo (.ldAtA16Sp 0xC0FF) base, (ramKey a).isSome = true)
      ∧ (∀ a ∈ storesTo (.ldAtA16Sp 0xC0FF) base, ramKey a ≠ some 0xC101) ∧ (∀ a ∈ storesTo (.ldAtA16Sp 0xC0FF) base, ¬ storeReaches a 0xE101) := by
  rw [stores_ld_a16_sp]
  have k1 : ramKey 0xC0FF = some 0xC0FF := rfl
  have k2 : ramKey 0xC100 = some 0xC100 := rfl
  have k3 : ramKey 0xE101 = some 0xC101 := rfl
  have all : ∀ p : Word → Prop, p 0xC0FF → p 0xC100 → ∀ a ∈ [(0xC0FF : Word), 0xC100], p a := by
    intro p h1 h2 a h
    obtain rfl | rfl : a = 0xC0FF ∨ a = 0xC100 := by simpa using h
    · exact h1
    · exact h2
  refine ⟨base_memInv, next_of_isNext (by decide +kernel), all _ (by rw [k1]; rfl) (by rw [k2]; rfl), all _ (by rw [k1]; decide) (by rw [k2]; decide),
    all _ (reaches_none _ _ (by decide) (.inr (by rw [k1, k3]; decide)) (by decide) (by decide) (by decide))
      (reaches_none _ _ (by decide) (.inr (by rw [k2, k3]; decide)) (by decide) (by decide) (by decide))⟩
theorem witness_MemoryFrame_register :
    (∃ t, exec (.ldhAtA8A 0x04) base = .next t) ∧ (∀ a ∈ storesTo (.ldhAtA8A 0x04) base, ¬ storeReaches a 0xFF06) := by
  rw [stores_ldh_a8]
  refine ⟨next_of_isNext (by decide +kernel), fun a h => ?_⟩
  obtain rfl : a = 0xFF04 := by simpa using h
  exact reaches_none _ _ (by decide) (.inl rfl) (by decide) (by decide) (by decide)

theorem witness_RegisterRoundTrip : FlagInv base ∧ ∃ t, step base = .next t :=
  ⟨base_inv.flags, (next_of_ends (p := fun _ => true) (by decide +kernel)).imp fun _ h => h.1⟩
theorem witness_RamReadsBack :
    MemInv base ∧ ramKey 0x8000 = some 0x8000 ∧ ramKey 0x9FFF = some 0x9FFF ∧ ramKey 0xFE9F = some 0xFE9F ∧ ramKey 0xFFFE = some 0xFFFE
      ∧ ramKey 0xFDFF = some 0xDDFF ∧ ramKey 0xFFFF ≠ some 0xFFFE ∧ base.vramLocked = false ∧ base.oamLocked = false :=
  ⟨base_memInv, by decide +kernel⟩
theorem witness_RegionsAndEcho :
    0xE000 ≤ (0xE000 : Word).toNat ∧ (0xFDFF : Word).toNat ≤ 0xFDFF ∧ (ramKey 0xC000).isSome = true ∧ ramKey 0xC000 = ramKey 0xE000
      ∧ (0xC000 ≤ (0xC000 : Word).toNat ∧ (0xDFFF : Word).toNat ≤ 0xDFFF) ∧ (0xFF80 ≤ (0xFF80 : Word).toNat ∧ (0xFFFE : Word).toNat ≤ 0xFFFE) := by
  decide +kernel
/-- The first and the last address of each range of R50, with its offset. -/
theorem witness_Regions_low :
    busDecode 0x00FF true = (.boot, 0xFF) ∧ busDecode 0x0100 true = (.romA, 0x100) ∧ busDecode 0x0000 false = (.romA, 0) ∧ busDecode 0x3FFF true = (.romA, 0x3FFF)
      ∧ busDecode 0x4000 true = (.romB, 0) ∧ busDecode 0x7FFF false = (.romB, 0x3FFF) ∧ busDecode 0x8000 true = (.vram, 0) ∧ busDecode 0x9FFF true = (.vram, 0x1FFF)
      ∧ busDecode 0xA000 true = (.eram, 0) ∧ busDecode 0xBFFF true = (.eram, 0x1FFF) := by decide +kernel
theorem witness_Regions_high :
    busDecode 0xC000 true = (.wram0, 0) ∧ busDecode 0xCFFF true = (.wram0, 0xFFF) ∧ busDecode 0xD000 true = (.wram1, 0) ∧ busDecode 0xDFFF true = (.wram1, 0xFFF)
      ∧ busDecode 0xE000 true = (.wram0, 0) ∧ busDecode 0xEFFF true = (.wram0, 0xFFF) ∧ busDecode 0xF000 true = (.wram1, 0) ∧ busDecode 0xFDFF true = (.wram1, 0xDFF)
      ∧ busDecode 0xFE00 true = (.oam, 0) ∧ busDecode 0xFE9F true = (.oam, 159) ∧ busDecode 0xFEA0 true = (.unmapped, 0) ∧ busDecode 0xFEFF true = (.unmapped, 95)
      ∧ busDecode 0xFF00 true = (.io, 0) ∧ busDecode 0xFF7F true = (.io, 127) ∧ busDecode 0xFF80 true = (.hram, 0) ∧ busDecode 0xFFFE true = (.hram, 126)
      ∧ busDecode 0xFFFF true = (.ie, 0) := by decide +kernel
theorem witness_Locked_vram :
    let s := { lcdAt 0 100 .draw with params.accessLock := true }
    (0x8000 : Word).toNat = 0x8000 ∧ (0x9FFF : Word).toNat = 0x9FFF
      ∧ (s.params.accessLock = true ∧ s.ppu.on = true ∧ s.ppu.mode = .draw)
      ∧ ¬(base.params.accessLock = true ∧ base.ppu.on = true ∧ base.ppu.mode = .draw) := by decide +kernel
theorem witness_Locked_oam :
    let s := { base with dma.active := true }
    let locked := fun s : State =>
      s.params.accessLock = true ∧ ((s.ppu.on = true ∧ (s.ppu.mode = .oamScan ∨ s.ppu.mode = .draw)) ∨ s.dma.active = true)
    (0xFE00 : Word).toNat = 0xFE00 ∧ (0xFE9F : Word).toNat = 0xFE9F ∧ locked s ∧ locked (lcdAt 0 50 .oamScan) ∧ ¬ locked base := by decide +kernel
theorem witness_Locked_absent :
    (0xFEA0 ≤ (0xFEA0 : Word).toNat ∧ (0xFEFF : Word).toNat ≤ 0xFEFF) ∧ (0xFF03 : Word).toNat = 0xFF03 ∧ (0xFF7F : Word).toNat ≤ 0xFF7F
      ∧ ¬(base.cart.answers.ramPresent = true ∧ base.cart.answers.ramEnabled = true) ∧ 0xA000 ≤ (0xA000 : Word).toNat
      ∧ (0xBFFF : Word).toNat ≤ 0xBFFF ∧ State.reset.bus.bootOverlay = true ∧ (0x00FF : Word).toNat ≤ 0xFF := by decide +kernel
theorem witness_Images :
    (∃ t, step base = .next t) ∧ (0x7FFF : Word).toNat ≤ 0x7FFF ∧ base.cart = .romOnly ∧ { base with cart := .bank5 1 }.cart = .bank5 1
      ∧ fourBanks.cart = .given bank5Record 1 :=
  ⟨witness_RegisterRoundTrip.2, by decide, rfl, rfl, rfl⟩
/-- A controller with two states, in its last one, written from functions: the state is bit 0 of the byte last stored. -/
theorem witness_Images_hook :
    let r := CartRecord.ofFunctions 1 (fun st => ⟨0, st + 1, 0, false, false⟩) (fun _ _ v => v.toNat % 2)
    { base with cart := .given r 1 }.cart = .given r 1 ∧ 1 ≤ 1 ∧ ∃ x, withRam.cart = .external x := ⟨rfl, Nat.le_refl 1, _, rfl⟩
theorem witness_Requests :
    DmaInv (irqs base 0 0x10) ∧ (irqs base 0 0x10).irq.ifl.getLsbD 4 = true ∧ (∃ t, exec .incB base = .next t) ∧ 0xFF0F ∉ storesTo .incB base :=
  ⟨by unfold DmaInv; decide +kernel, by decide, next_of_isNext (by decide +kernel), by decide⟩
theorem witness_OnlyFour_ei : ∃ t, step { base with cpu.eiDelay := 1 } = .next t ∧ (t.cpu.ime != false) = true := next_of_ends (by decide +kernel)
theorem witness_OnlyFour_di : ∃ t, step { start r0 [0xF3] [] with cpu.ime := true } = .next t ∧ (t.cpu.ime != true) = true := next_of_ends (by decide +kernel)
theorem witness_OnlyFour_reti : ∃ t, step (start r0 [0xD9] []) = .next t ∧ (t.cpu.ime != false) = true := next_of_ends (by decide +kernel)
theorem witness_OnlyFour_interrupt : ∃ t, step { irqs base 1 1 with cpu.ime := true } = .next t ∧ (t.cpu.ime != true) = true := next_of_ends (by decide +kernel)

theorem witness_TimaCounts :
    let s := timed 0 5 0 0
    s.timer.phase = .idle ∧ s.timer.signal = s.timer.signalNow ∧ s.timer.tac.getLsbD 2 = true
      ∧ s.timer.tima.toNat + ((s.timer.counter.toNat + 4095) / 2 ^ (s.timer.selBit + 1) - s.timer.counter.toNat / 2 ^ (s.timer.selBit + 1)) ≤ 255 := by
  decide +kernel
theorem witness_Overflow :
    let s := timed 0x000F 5 0xFF 0x80
    s.timer.phase = .idle ∧ s.timer.signal = s.timer.signalNow ∧ s.timer.tac.getLsbD 2 = true ∧ s.timer.tima = 0xFF
      ∧ (s.timer.counter.toNat + 1) % 2 ^ (s.timer.selBit + 1) = 0 := by decide +kernel
theorem witness_TimerStores :
    { base with timer.phase := .a 1 }.timer.phase = .a 1 ∧ { base with timer.phase := .b 4 }.timer.phase = .b 4 ∧ base.timer.phase = .idle
      ∧ (timed 0x0008 5 0xFE 0).timer.signal = (timed 0x0008 5 0xFE 0).timer.signalNow ∧ (timed 0x0008 5 0xFE 0).timer.tima ≠ 0xFF
      ∧ (timed 0x0008 5 0xFE 0).timer.signalNow = true := by decide +kernel
/-- A DIV or TAC store makes the multiplexer output fall: TIMA at 0xFE, at 0xFF, and held in a phase; and a store that makes no fall. -/
theorem witness_TimerStores_edges :
    let fell := fun t : Timer => t.tac.getLsbD 2 && t.counter.getLsbD t.selBit
    let full := (timed 0x0008 5 0xFF 0).timer
    let held := { full with tima := 0, phase := .a 4 }
    let none := (timed 0x0007 5 0xFF 0).timer
    (full.phase = .idle ∧ full.signal = full.signalNow ∧ fell full = true ∧ full.tima = 0xFF)
      ∧ (held.phase ≠ .idle ∧ held.signal = held.signalNow ∧ fell held = true)
      ∧ (none.phase = .idle ∧ none.signal = none.signalNow ∧ fell none = false)
      ∧ ((0x01 : Byte).getLsbD 2 = false ∧ (0x06 : Byte).getLsbD 2 = true ∧ full.counter.getLsbD 5 = false) := by decide +kernel
theorem witness_OneDot :
    let s := lcdAt 153 455 .vblank
    s.ppu.on = true ∧ s.ppu.line < 154 ∧ s.ppu.dot < 456 ∧ base.ppu.on = false := by decide
theorem witness_ReportedLy :
    let first := lcdAt 0 0 .hblank
    let last := lcdAt 153 455 .vblank
    first.ppu.line < 154 ∧ first.ppu.dot < 456 ∧ last.ppu.line < 154 ∧ last.ppu.dot < 456 := by decide
theorem witness_DotRequests : (lcdAt 144 0 .vblank).ppu.on = true := by decide
theorem witness_Pixels : Inv drawing ∧ ∃ t, step drawing = .next t ∧ (t.out.image == [{ x := 0, y := 0, shade := 3 }] && t.ppu.lx == 1) = true :=
  ⟨drawing_inv, next_of_ends (by decide +kernel)⟩
/-- Every case of a DRAW dot, with the X latch set, no window, and no object or the second of two objects due. -/
theorem witness_DrawDot :
    let p := (lcdAt 0 81 .draw).ppu
    let r := base.lcd
    let on := { r with lcdc := 0x82 }
    let q := { p with wxLatch := true }
    let objs : List ObjEntry := [{ idx := 3, y := 16, x := 0, done := true }, { idx := 4, y := 16, x := 8, done := false }]
    let pop := { q with bgFifo := [1, 2] }
    { p with delay := 1 }.delay > 0 ∧ p.delay = 0 ∧ p.ofetch.active = false ∧ { p with ofetch.active := true }.ofetch.active = true
      ∧ (r.wx.toNat ≤ p.lx + 7 ∧ p.winActive = false ∧ p.wyLatch = false)
      ∧ (on.lcdc.getLsbD 1 = true ∧ q.discard = 0 ∧ objs[1]? = some { idx := 4, y := 16, x := 8, done := false }
          ∧ (8 : Byte).toNat ≤ q.lx + 8 ∧ ∀ j < 1, ∀ e, objs[j]? = some e → e.done = true)
      ∧ r.lcdc.getLsbD 1 = false ∧ (q.bgStep r base.peek).bgFifo = [] ∧ (pop.bgStep r base.peek).bgFifo = [1, 2] ∧ (pop.bgStep r base.peek).discard = 0
      ∧ (Ppu.bgStep { pop with discard := 7 } r base.peek).discard > 0 ∧ pop.objFifo = .transparent :: List.replicate 7 .transparent := by
  refine ⟨by decide, rfl, rfl, rfl, by decide, ⟨by decide, rfl, rfl, by decide, ?_⟩, by decide, by decide +kernel, by decide +kernel,
    by decide +kernel, by decide +kernel, rfl⟩
  intro j hj e he
  obtain rfl : j = 0 := by omega
  exact Option.some.inj he ▸ rfl
/-- A dot of every kind at the ends of its range. -/
theorem witness_Dots :
    let on := fun s : State => s.ppu.on = true ∧ s.ppu.line < 154 ∧ s.ppu.dot < 456
    (on (lcdAt 0 0 .hblank) ∧ on (lcdAt 143 0 .hblank)) ∧ (on (lcdAt 0 1 .oamScan) ∧ on (lcdAt 143 79 .oamScan))
      ∧ on (lcdAt 143 80 .oamScan) ∧ (on (lcdAt 0 81 .draw) ∧ (lcdAt 0 81 .draw).ppu.mode = .draw)
      ∧ (on (lcdAt 143 455 .hblank) ∧ (lcdAt 143 455 .hblank).ppu.mode ≠ .draw) ∧ on (lcdAt 144 0 .hblank) ∧ on (lcdAt 153 455 .vblank) := by
  decide +kernel
theorem witness_ObjectPriority :
    let o : ObjPixel := { c := 1, pal := true, prio := true }
    (o.c ≠ 0 ∧ (0 : Colour) = 0) ∧ (o.prio = true ∧ (3 : Colour) ≠ 0 ∧ (0x01 : Byte).getLsbD 0 = true) ∧ ObjPixel.transparent.c = 0 := by decide
theorem witness_OamScan :
    let p := { base.ppu with objs := List.replicate 9 { idx := 0, y := 16, x := 8, done := false } }
    let full := { base.ppu with objs := List.replicate 10 { idx := 0, y := 16, x := 8, done := false } }
    p.objs.Pairwise (fun a b => a.x.toNat ≤ b.x.toNat) ∧ p.objs.length ≤ 10 ∧ p.objs.length < 10 ∧ ((16 : Byte).toNat ≤ p.line + 16 ∧ p.line + 16 < 16 + 8)
      ∧ full.objs.length ≤ 10 ∧ ¬ full.objs.length < 10 := by decide +kernel
theorem witness_Fetcher : (lcdAt 0 80 .draw).ppu.fetch.stage = 0 ∧ (lcdAt 0 80 .draw).ppu.bgFifo = [] := by decide
theorem witness_ObjectPixels :
    let o : ObjEntry := { idx := 0, y := 16, x := 8, done := false }
    let p := { base.ppu with objs := [o], ofetch.active := true, ofetch.stage := 0 }
    p.objs[p.ofetch.obj]? = some o ∧ p.ofetch.stage = 0 ∧ p.objFifo.length = 8 ∧ (p.objFifo.getD 7 ObjPixel.transparent).c = 0 := by decide
/-- An object at x = 12, four columns to the right of column 0, with colour 1 in every pixel, palette 1 and priority 1, fills the transparent ones of slots 4 to 7; slot 5 is
taken (R225). -/
theorem test_object_merge :
    let o : ObjEntry := { idx := 0, y := 16, x := 12, done := false }
    let taken : ObjPixel := { c := 2, pal := false, prio := false }
    let new : ObjPixel := { c := 1, pal := true, prio := true }
    let p := { base.ppu with objs := [o], objFifo := emptyObjFifo.set 5 taken, ofetch := { base.ppu.ofetch with active := true, stage := 0, obj := 0 } }
    let peek : Word → Byte := fun a => if a = 0xFE02 then 0x07 else if a = 0xFE03 then 0x90 else if a = 0x8070 then 0xFF else 0x00
    let clear := ObjPixel.transparent
    ((fun u : Ppu => u.objStep base.lcd peek)^[6] p).objFifo = [clear, clear, clear, clear, new, taken, new, new] := by decide +kernel
theorem witness_LcdPower : base.lcd.lcdc.getLsbD 7 ≠ (0x91 : Byte).getLsbD 7 ∧ base.lcd.lcdc.getLsbD 7 = (0x11 : Byte).getLsbD 7 := by decide
theorem witness_Dma : MemInv base := base_memInv
theorem witness_Environment :
    base.env.source = .closed ∧ State.reset.env.source = .unconstrained ∧ (0xFF02 : Word).toNat ∈ [0xFF00, 0xFF01, 0xFF02]
      ∧ (0xFF30 ≤ (0xFF3F : Word).toNat ∧ (0xFF3F : Word).toNat ≤ 0xFF3F) := by decide +kernel
/-- Parameters of a machine that can be built. -/
def plainBuild : BuildParams :=
  { bootRom := [0x00], cartRom := List.replicate 32768 0x00, cart := some .romOnly, ramInit := [], cartRamInit := [], accessLock := true,
    drawStartDelay := 0, env := .closed }
theorem witness_Construction :
    1 ≤ plainBuild.bootRom.length ∧ plainBuild.bootRom.length ≤ 256 ∧ 32768 ≤ plainBuild.cartRom.length ∧ plainBuild.cartRom.length % 16384 = 0
      ∧ plainBuild.cart = some .romOnly := by
  have h : plainBuild.cartRom.length = 32768 := List.length_replicate
  exact ⟨by decide, by decide, by rw [h], by rw [h], rfl⟩
theorem witness_Construction_refused :
    { plainBuild with bootRom := [] }.bootRom.length = 0 ∧ { plainBuild with bootRom := List.replicate 257 0 }.bootRom.length > 256
      ∧ { plainBuild with cartRom := [] }.cartRom.length < 32768 ∧ { plainBuild with cart := none }.cart = none := by decide +kernel
theorem witness_CartridgeWindows :
    base.bus.bootOverlay = false ∧ 0x100 ≤ (0x0100 : Word).toNat ∧ (0x3FFF : Word).toNat ≤ 0x3FFF ∧ 0x4000 ≤ (0x4000 : Word).toNat ∧ (0x7FFF : Word).toNat ≤ 0x7FFF
      ∧ base.cart = .romOnly ∧ 32768 ≤ base.bus.cartRomLen ∧ { base with cart := .bank5 1 }.cart = .bank5 1
      ∧ withRam.cart.answers.ramPresent = true ∧ withRam.cart.answers.ramEnabled = true ∧ 0xA000 ≤ (0xA000 : Word).toNat ∧ (0xBFFF : Word).toNat ≤ 0xBFFF := by
  decide +kernel
theorem witness_CartridgeWindows_inv : MemInv withRam := base_memInv
theorem witness_StepKeeps : Inv base ∧ ∃ t, step base = .next t := ⟨base_inv, witness_RegisterRoundTrip.2⟩

end Sys2Proof.Tests
end

section
/-! SUPPORT. What an instruction may change, as one value made of the tables, and what each shared operation leaves alone in those terms:
one lemma per operation, composed along a meaning. -/

namespace Sys2Proof

/-! ### What the operands and operations of the rules name -/

/-- The line `Flags: - - - -` (00_scope.md R16). -/
def keepFlags : FlagEffects := ⟨.keep, .keep, .keep, .keep⟩

/-- The halves of a pair of table `rp`; SP has none. -/
def Pair.halves : Pair → List Reg8
  | .bc => [.b, .c]
  | .de => [.d, .e]
  | .hl => [.h, .l]
  | .sp => []

/-- The pair is SP. -/
def Pair.isSp : Pair → Bool
  | .sp => true
  | _ => false

/-- The 8-bit registers among the halves of a pair of table `rp2`. -/
def StackPair.halves : StackPair → List Reg8
  | .bc => [.b, .c]
  | .de => [.d, .e]
  | .hl => [.h, .l]
  | .af => [.a]

/-- A POP writes the flags where F is a half of its pair (40_loads.md R110, R111). -/
def StackPair.flagEffects : StackPair → FlagEffects
  | .af => ⟨.write, .write, .write, .write⟩
  | _ => keepFlags

/-- The line of flags of the ALU operations (41_alu8.md R112). -/
def AluOp.flagEffects : AluOp → FlagEffects
  | .add | .adc => ⟨.write, .zero, .write, .write⟩
  | .sub | .sbc | .cp => ⟨.write, .one, .write, .write⟩
  | .and => ⟨.write, .zero, .one, .zero⟩
  | .xor | .or => ⟨.write, .zero, .zero, .zero⟩

/-- The register that an ALU operation writes: A, and none for CP. -/
def AluOp.dest : AluOp → List Reg8
  | .cp => []
  | _ => [.a]

/-- The line of flags of the rotates and shifts: SWAP clears the carry (43_bitops.md R156). -/
def ShiftOp.flagEffects : ShiftOp → FlagEffects
  | .swap => ⟨.write, .zero, .zero, .zero⟩
  | _ => ⟨.write, .zero, .zero, .write⟩

end Sys2Proof

namespace Sys2Proof.Machine

/-! ### Footprints -/

/-- What an operation may change. What a footprint does not name, the operation leaves alone. `halt` stands for `halted` and `haltBug`. -/
structure Footprint where
  flags : FlagEffects := keepFlags
  regs : List Reg8 := []
  sp : Bool := false
  pc : Bool := false
  ime : Bool := false
  eiDelay : Bool := false
  halt : Bool := false
  stores : List Word := []

/-- The flags agree with a rule's line, and the low bits of F stay or are cleared (10_state.md R22). -/
structure FlagsAgree (e : FlagEffects) (s t : State) : Prop where
  z : e.z.agrees s.flagZ t.flagZ
  n : e.n.agrees s.flagN t.flagN
  h : e.h.agrees s.flagH t.flagH
  c : e.c.agrees s.flagC t.flagC
  low : t.regs.f &&& 0x0F = s.regs.f &&& 0x0F ∨ t.regs.f &&& 0x0F = 0

/-- From `s` to `t` only what the footprint names has changed. -/
structure Frame (f : Footprint) (s t : State) : Prop where
  flags : FlagsAgree f.flags s t
  reg8 : ∀ r, r ∉ f.regs → t.reg8 r = s.reg8 r
  sp : f.sp = false → t.regs.sp = s.regs.sp
  pc : f.pc = false → t.regs.pc = s.regs.pc
  ime : f.ime = false → t.cpu.ime = s.cpu.ime
  eiDelay : f.eiDelay = false → t.cpu.eiDelay = s.cpu.eiDelay
  halt : f.halt = false → t.cpu.halted = s.cpu.halted ∧ t.cpu.haltBug = s.cpu.haltBug
  record : t.cpu.instrAddr = s.cpu.instrAddr ∧ t.cpu.opcode = s.cpu.opcode ∧ t.cpu.fault = s.cpu.fault ∧ t.cpu.refused = s.cpu.refused
  overlay : t.bus.bootOverlay = true → s.bus.bootOverlay = true
  stores : StoresOnly f.stores s t

theorem FlagsAgree.of_f_eq {s t : State} (h : t.regs.f = s.regs.f) : FlagsAgree keepFlags s t where
  z := congrArg (fun f : Byte => f.getLsbD 7) h
  n := congrArg (fun f : Byte => f.getLsbD 6) h
  h := congrArg (fun f : Byte => f.getLsbD 5) h
  c := congrArg (fun f : Byte => f.getLsbD 4) h
  low := .inl (congrArg (fun f : Byte => f &&& 0x0F) h)

theorem FlagsAgree.congr_left {e : FlagEffects} {s s' t : State} (h : FlagsAgree keepFlags s s') (g : FlagsAgree e s' t) : FlagsAgree e s t := by
  obtain ⟨hz, hn, hh, hc, hl⟩ := h
  obtain ⟨gz, gn, gh, gc, gl⟩ := g
  rw [hz] at gz; rw [hn] at gn; rw [hh] at gh; rw [hc] at gc
  refine ⟨gz, gn, gh, gc, gl.elim (fun q => ?_) .inr⟩
  rw [q]; exact hl

/-- An operation that leaves the control state alone. -/
theorem Frame.of_cpu_eq {f : Footprint} {s t : State} (hcpu : t.cpu = s.cpu) (flags : FlagsAgree f.flags s t)
    (reg8 : ∀ r, r ∉ f.regs → t.reg8 r = s.reg8 r) (sp : f.sp = false → t.regs.sp = s.regs.sp) (pc : f.pc = false → t.regs.pc = s.regs.pc)
    (overlay : t.bus.bootOverlay = true → s.bus.bootOverlay = true) (stores : StoresOnly f.stores s t) : Frame f s t :=
  { flags, reg8, sp, pc, overlay, stores
    ime := fun _ => by rw [hcpu]
    eiDelay := fun _ => by rw [hcpu]
    halt := fun _ => by rw [hcpu]; exact ⟨rfl, rfl⟩
    record := by rw [hcpu]; exact ⟨rfl, rfl, rfl, rfl⟩ }

/-- An update of the registers alone. -/
theorem Frame.of_regs {f : Footprint} {s t : State} (h : t = { s with regs := t.regs }) (flags : FlagsAgree f.flags s t)
    (reg8 : ∀ r, r ∉ f.regs → t.reg8 r = s.reg8 r) (sp : f.sp = false → t.regs.sp = s.regs.sp) (pc : f.pc = false → t.regs.pc = s.regs.pc)
    (hs : f.stores = []) : Frame f s t := by
  refine .of_cpu_eq (by rw [h]) flags reg8 sp pc (by rw [h]; exact id) ?_
  rw [hs]
  exact (StoresOnly.refl s).regs (by rw [h])

/-- An operation that leaves the registers and the control state alone. -/
theorem Frame.of_stores {l : List Word} {s t : State} (hregs : t.regs = s.regs) (hcpu : t.cpu = s.cpu)
    (overlay : t.bus.bootOverlay = true → s.bus.bootOverlay = true) (stores : StoresOnly l s t) : Frame { stores := l } s t :=
  .of_cpu_eq hcpu (.of_f_eq (by rw [hregs])) (fun r _ => by cases r <;> simp only [State.reg8, hregs]) (fun _ => by rw [hregs])
    (fun _ => by rw [hregs]) overlay stores

/-- An update of the control state alone that keeps what stands there of the current instruction. -/
theorem Frame.of_cpu {f : Footprint} {s t : State} (h : t = { s with cpu := t.cpu }) (hf : f.flags = keepFlags) (hs : f.stores = [])
    (ime : f.ime = false → t.cpu.ime = s.cpu.ime) (eiDelay : f.eiDelay = false → t.cpu.eiDelay = s.cpu.eiDelay)
    (halt : f.halt = false → t.cpu.halted = s.cpu.halted ∧ t.cpu.haltBug = s.cpu.haltBug)
    (record : t.cpu.instrAddr = s.cpu.instrAddr ∧ t.cpu.opcode = s.cpu.opcode ∧ t.cpu.fault = s.cpu.fault ∧ t.cpu.refused = s.cpu.refused) :
    Frame f s t :=
  { ime, eiDelay, halt, record
    flags := by rw [hf]; exact .of_f_eq (by rw [h])
    reg8 := fun r _ => by rw [h]; cases r <;> rfl
    sp := fun _ => by rw [h]
    pc := fun _ => by rw [h]
    overlay := by rw [h]; exact id
    stores := by rw [hs]; exact (StoresOnly.refl s).regs (by rw [h]) }

/-- Frames compose. The first operation leaves the flags alone, so the line of the second is that of both. -/
theorem Frame.trans {f g : Footprint} {s t u : State} (h : Frame f s t) (k : Frame g t u) (hf : f.flags = keepFlags := by rfl) :
    Frame { flags := g.flags, regs := f.regs ++ g.regs, sp := f.sp || g.sp, pc := f.pc || g.pc, ime := f.ime || g.ime,
            eiDelay := f.eiDelay || g.eiDelay, halt := f.halt || g.halt, stores := f.stores ++ g.stores } s u where
  flags := FlagsAgree.congr_left (hf ▸ h.flags) k.flags
  reg8 r hr :=
    (k.reg8 r fun c => hr (List.mem_append_right _ c)).trans (h.reg8 r fun c => hr (List.mem_append_left _ c))
  sp e := (k.sp (Bool.or_eq_false_iff.1 e).2).trans (h.sp (Bool.or_eq_false_iff.1 e).1)
  pc e := (k.pc (Bool.or_eq_false_iff.1 e).2).trans (h.pc (Bool.or_eq_false_iff.1 e).1)
  ime e := (k.ime (Bool.or_eq_false_iff.1 e).2).trans (h.ime (Bool.or_eq_false_iff.1 e).1)
  eiDelay e := (k.eiDelay (Bool.or_eq_false_iff.1 e).2).trans (h.eiDelay (Bool.or_eq_false_iff.1 e).1)
  halt e := by
    obtain ⟨ef, eg⟩ := Bool.or_eq_false_iff.1 e
    exact ⟨(k.halt eg).1.trans (h.halt ef).1, (k.halt eg).2.trans (h.halt ef).2⟩
  record := by
    obtain ⟨a1, a2, a3, a4⟩ := h.record
    obtain ⟨b1, b2, b3, b4⟩ := k.record
    exact ⟨b1.trans a1, b2.trans a2, b3.trans a3, b4.trans a4⟩
  overlay e := h.overlay (k.overlay e)
  stores := h.stores.trans k.stores

/-- A meaning ends with its cost, which no footprint names. -/
theorem Frame.cost {f : Footprint} {s t : State} (h : Frame f s t) (m : Nat) : Frame f s (t.cost m) :=
  { h with
    reg8 := fun r hr => (State.reg8_cost t m r).trans (h.reg8 r hr)
    flags := ⟨h.flags.z, h.flags.n, h.flags.h, h.flags.c, h.flags.low⟩
    stores := h.stores.regs rfl }

/-- A frame that leaves PC, or SP too, alone is one in which they may change. -/
theorem Frame.toPc {f : Footprint} {s t : State} (h : Frame f s t) : Frame { f with pc := true } s t := { h with pc := nofun }
theorem Frame.toSp {f : Footprint} {s t : State} (h : Frame f s t) : Frame { f with sp := true } s t := { h with sp := nofun }

theorem Frame.refl (s : State) : Frame {} s s :=
  .of_stores rfl rfl id (StoresOnly.refl s)

/-! ### Loads, stores, registers -/

theorem State.afterLoad_frame (s : State) (a : Word) : Frame {} s (s.afterLoad a) :=
  .of_stores (by simp) (by simp) (by simp) (StoresOnly.afterLoad s a)

theorem State.store_footprint (s : State) (a : Word) (v : Byte) : Frame { stores := [a] } s (s.store a v) :=
  .of_stores (by simp) (by simp) (s.store_bootOverlay a v) (StoresOnly.store s a v)

theorem State.setReg8_frame (s : State) (r : Reg8) (v : Byte) : Frame { regs := [r] } s (s.setReg8 r v) :=
  .of_regs (by cases r <;> rfl) (.of_f_eq (by simp)) (fun x hx => State.reg8_setReg8_ne s r x v (by simpa using hx)) (by simp) (by simp) rfl

/-- A write of a pair leaves the registers that are no half of it. -/
theorem State.reg8_setPair (s : State) (p : Pair) (v : Word) (r : Reg8) (h : r ∉ p.halves) : (s.setPair p v).reg8 r = s.reg8 r := by
  cases p <;> cases r <;> simp_all [Pair.halves, State.setPair, State.setHl, State.reg8]

theorem State.setPair_frame (s : State) (p : Pair) (v : Word) : Frame { regs := p.halves, sp := p.isSp } s (s.setPair p v) :=
  .of_regs (by cases p <;> rfl) (.of_f_eq (by simp)) (s.reg8_setPair p v) (by cases p <;> simp [Pair.isSp, State.setPair]) (by simp) rfl

theorem State.setHl_frame (s : State) (v : Word) : Frame { regs := [.h, .l] } s (s.setHl v) := s.setPair_frame .hl v

theorem State.setSp_frame (s : State) (v : Word) : Frame { sp := true } s (s.setSp v) :=
  .of_regs rfl (.of_f_eq rfl) (fun r _ => s.reg8_setSp v r) nofun (fun _ => rfl) rfl

theorem State.setPc_frame (s : State) (v : Word) : Frame { pc := true } s (s.setPc v) :=
  .of_regs rfl (.of_f_eq rfl) (fun r _ => s.reg8_setPc v r) (fun _ => rfl) nofun rfl

theorem State.setFlags_frame (s : State) (e : FlagEffects) {z n h c : Bool} (hz : e.z.agrees s.flagZ z) (hn : e.n.agrees s.flagN n)
    (hh : e.h.agrees s.flagH h) (hc : e.c.agrees s.flagC c) : Frame { flags := e } s (s.setFlags z n h c) :=
  .of_regs rfl ⟨by simpa using hz, by simpa using hn, by simpa using hh, by simpa using hc, .inr (s.setFlags_low z n h c)⟩
    (fun r _ => s.reg8_setFlags z n h c r) (fun _ => rfl) (fun _ => rfl) rfl

/-! ### Fetch and stack (00_scope.md R15) -/

theorem State.afterFetch_frame (s : State) : Frame { pc := true } s s.afterFetch :=
  (s.afterLoad_frame s.regs.pc).trans (State.setPc_frame _ _)

theorem State.push16_frame (s : State) (v : Word) : Frame { sp := true, stores := [s.regs.sp - 1, s.regs.sp - 2] } s (s.push16 v) := by
  rw [State.push16_eq]
  exact ((s.store_footprint (s.regs.sp - 1) (hiByte v)).trans (State.store_footprint _ (s.regs.sp - 2) (loByte v))).trans (State.setSp_frame _ _)

theorem State.afterPop_frame (s : State) : Frame { sp := true } s s.afterPop :=
  ((s.afterLoad_frame s.regs.sp).trans (State.afterLoad_frame _ (s.regs.sp + 1))).trans (State.setSp_frame _ _)

theorem State.setStackPair_frame (s : State) (q : StackPair) (v : Word) :
    Frame { flags := q.flagEffects, regs := q.halves } s (s.setStackPair q v) := by
  cases q with
  | bc => exact s.setPair_frame .bc v
  | de => exact s.setPair_frame .de v
  | hl => exact s.setPair_frame .hl v
  | af =>
    have low : (loByte v &&& 0xF0) &&& 0x0F = 0 := by rw [BitVec.and_assoc]; exact BitVec.and_zero
    refine .of_regs rfl ⟨trivial, trivial, trivial, trivial, .inr low⟩ (fun r hr => ?_) (fun _ => rfl) (fun _ => rfl) rfl
    cases r <;> simp_all [StackPair.halves, State.setStackPair, State.setF, State.reg8]

/-! ### Flags -/

/-- The flags that the table of R112 computes agree with its line, whatever they were before. -/
theorem alu_agrees (op : AluOp) (a b : Byte) (cin z n h c : Bool) :
    op.flagEffects.z.agrees z (alu op a b cin).z ∧ op.flagEffects.n.agrees n (alu op a b cin).n
      ∧ op.flagEffects.h.agrees h (alu op a b cin).h ∧ op.flagEffects.c.agrees c (alu op a b cin).c := by
  cases op <;> simp [AluOp.flagEffects, FlagEffect.agrees, alu, aluResult]

theorem State.alu8_frame (s : State) (op : AluOp) (b : Byte) : Frame { flags := op.flagEffects, regs := op.dest } s (s.alu8 op b) := by
  obtain ⟨hz, hn, hh, hc⟩ := alu_agrees op s.regs.a b s.flagC s.flagZ s.flagN s.flagH s.flagC
  cases op with
  | cp => exact s.setFlags_frame _ hz hn hh hc
  | _ => exact (s.setReg8_frame .a (alu _ s.regs.a b s.flagC).val).trans (State.setFlags_frame _ _ hz hn hh hc)

theorem State.incFlags_frame (s : State) (v : Byte) : Frame { flags := ⟨.write, .zero, .write, .keep⟩ } s (s.incFlags v) :=
  s.setFlags_frame _ trivial rfl trivial rfl

theorem State.decFlags_frame (s : State) (v : Byte) : Frame { flags := ⟨.write, .one, .write, .keep⟩ } s (s.decFlags v) :=
  s.setFlags_frame _ trivial rfl trivial rfl

theorem State.spPlusFlags_frame (s : State) (w : Word) (e : Byte) :
    Frame { flags := ⟨.zero, .zero, .write, .write⟩ } s (s.spPlusFlags w e) :=
  s.setFlags_frame _ rfl rfl trivial trivial

theorem State.rotAFlags_frame (s : State) (c : Bool) : Frame { flags := ⟨.zero, .zero, .zero, .write⟩ } s (s.rotAFlags c) :=
  s.setFlags_frame _ rfl rfl rfl trivial

theorem State.bitFlags_frame (s : State) (v : Byte) (b : Fin 8) : Frame { flags := ⟨.write, .zero, .one, .keep⟩ } s (s.bitFlags v b) :=
  s.setFlags_frame _ trivial rfl rfl rfl

theorem State.shiftFlags_frame (s : State) (op : ShiftOp) (v : Byte) (c : Bool) :
    Frame { flags := op.flagEffects } s (s.shiftFlags (shiftResult op v c)) := by
  cases op with
  | swap => exact s.setFlags_frame _ trivial rfl rfl rfl
  | _ => exact s.setFlags_frame _ trivial rfl rfl trivial

end Sys2Proof.Machine
end

section
/-! SUPPORT. Every meaning stays inside its instruction's footprint: one lemma per operand form, then the instructions by their form. -/

namespace Sys2Proof.Machine

/-! ### The operand forms -/

section
variable {s t : State}

theorem ldRegFromReg_frame {dst src : Reg8} (h : ldRegFromReg dst src s = .next t) : Frame { regs := [dst] } s t := by
  cases h; exact (s.setReg8_frame dst _).cost 1

theorem ldRegFromImm_frame {r : Reg8} {n : Byte} (h : ldRegFromImm r n s = .next t) : Frame { regs := [r] } s t := by
  cases h; exact (s.setReg8_frame r n).cost 2

theorem ldRegFromMem_frame {r : Reg8} {a : Word} {m : Nat} (h : ldRegFromMem r a m s = .next t) : Frame { regs := [r] } s t := by
  cases h; exact ((s.afterLoad_frame a).trans (State.setReg8_frame _ r _)).cost m

theorem stMem_frame {a : Word} {v : Byte} {m : Nat} (h : stMem a v m s = .next t) : Frame { stores := [a] } s t := by
  cases h; exact (s.store_footprint a v).cost m

theorem stAtHlMove_frame {d : Word} (h : stAtHlMove d s = .next t) : Frame { regs := [.h, .l], stores := [s.hl] } s t := by
  cases h; exact ((s.store_footprint s.hl _).trans (State.setHl_frame _ _)).cost 2

theorem ldAtHlMove_frame {d : Word} (h : ldAtHlMove d s = .next t) : Frame { regs := [.a, .h, .l] } s t := by
  cases h; exact (((s.afterLoad_frame s.hl).trans (State.setReg8_frame _ .a _)).trans (State.setHl_frame _ _)).cost 2

theorem ldPairFromImm_frame {p : Pair} {w : Word} (h : ldPairFromImm p w s = .next t) :
    Frame { regs := p.halves, sp := p.isSp } s t := by
  cases h; exact (s.setPair_frame p w).cost 3

theorem pushPair_frame {q : StackPair} (h : pushPair q s = .next t) :
    Frame { sp := true, stores := [s.regs.sp - 1, s.regs.sp - 2] } s t := by
  cases h; exact (s.push16_frame _).cost 4

theorem popPair_frame {q : StackPair} (h : popPair q s = .next t) :
    Frame { flags := q.flagEffects, regs := q.halves, sp := true } s t := by
  cases h; exact (s.afterPop_frame.trans (State.setStackPair_frame _ q _)).cost 3

theorem aluReg_frame {op : AluOp} {r : Reg8} (h : aluReg op r s = .next t) : Frame { flags := op.flagEffects, regs := op.dest } s t := by
  cases h; exact (s.alu8_frame op _).cost 1

theorem aluAtHl_frame {op : AluOp} (h : aluAtHl op s = .next t) : Frame { flags := op.flagEffects, regs := op.dest } s t := by
  cases h; exact ((s.afterLoad_frame s.hl).trans (State.alu8_frame _ op _)).cost 2

theorem aluImm_frame {op : AluOp} {n : Byte} (h : aluImm op n s = .next t) : Frame { flags := op.flagEffects, regs := op.dest } s t := by
  cases h; exact (s.alu8_frame op n).cost 2

theorem incReg8_frame {r : Reg8} (h : incReg8 r s = .next t) : Frame { flags := ⟨.write, .zero, .write, .keep⟩, regs := [r] } s t := by
  cases h; exact ((s.setReg8_frame r _).trans (State.incFlags_frame _ _)).cost 1

theorem decReg8_frame {r : Reg8} (h : decReg8 r s = .next t) : Frame { flags := ⟨.write, .one, .write, .keep⟩, regs := [r] } s t := by
  cases h; exact ((s.setReg8_frame r _).trans (State.decFlags_frame _ _)).cost 1

theorem incPair16_frame {p : Pair} (h : incPair16 p s = .next t) : Frame { regs := p.halves, sp := p.isSp } s t := by
  cases h; exact (s.setPair_frame p _).cost 2

theorem decPair16_frame {p : Pair} (h : decPair16 p s = .next t) : Frame { regs := p.halves, sp := p.isSp } s t := by
  cases h; exact (s.setPair_frame p _).cost 2

theorem addHl16_frame {p : Pair} (h : addHl16 p s = .next t) : Frame { flags := ⟨.keep, .zero, .write, .write⟩, regs := [.h, .l] } s t := by
  cases h; exact ((s.setHl_frame _).trans (State.setFlags_frame _ ⟨.keep, .zero, .write, .write⟩ rfl rfl trivial trivial)).cost 2

theorem rotA_frame {op : ShiftOp} (h : rotA op s = .next t) : Frame { flags := ⟨.zero, .zero, .zero, .write⟩, regs := [.a] } s t := by
  cases h; exact ((s.setReg8_frame .a _).trans (State.rotAFlags_frame _ _)).cost 1

theorem shiftReg8_frame {op : ShiftOp} {r : Reg8} (h : shiftReg8 op r s = .next t) : Frame { flags := op.flagEffects, regs := [r] } s t := by
  cases h; exact ((s.setReg8_frame r _).trans (State.shiftFlags_frame _ op _ _)).cost 2

theorem shiftMem_frame {op : ShiftOp} (h : shiftMem op s = .next t) : Frame { flags := op.flagEffects, stores := [s.hl] } s t := by
  cases h; exact (((s.afterLoad_frame s.hl).trans (State.store_footprint _ s.hl _)).trans (State.shiftFlags_frame _ op _ _)).cost 4

theorem bitReg_frame {b : Fin 8} {r : Reg8} (h : bitReg b r s = .next t) : Frame { flags := ⟨.write, .zero, .one, .keep⟩ } s t := by
  cases h; exact (s.bitFlags_frame _ b).cost 2

theorem bitMem_frame {b : Fin 8} (h : bitMem b s = .next t) : Frame { flags := ⟨.write, .zero, .one, .keep⟩ } s t := by
  cases h; exact ((s.afterLoad_frame s.hl).trans (State.bitFlags_frame _ _ b)).cost 3

theorem resReg_frame {b : Fin 8} {r : Reg8} (h : resReg b r s = .next t) : Frame { regs := [r] } s t := by
  cases h; exact (s.setReg8_frame r _).cost 2

theorem resMem_frame {b : Fin 8} (h : resMem b s = .next t) : Frame { stores := [s.hl] } s t := by
  cases h; exact ((s.afterLoad_frame s.hl).trans (State.store_footprint _ s.hl _)).cost 4

theorem setReg_frame {b : Fin 8} {r : Reg8} (h : setReg b r s = .next t) : Frame { regs := [r] } s t := by
  cases h; exact (s.setReg8_frame r _).cost 2

theorem setMem_frame {b : Fin 8} (h : setMem b s = .next t) : Frame { stores := [s.hl] } s t := by
  cases h; exact ((s.afterLoad_frame s.hl).trans (State.store_footprint _ s.hl _)).cost 4

theorem jumpTo_frame {w : Word} {m : Nat} (h : jumpTo w m s = .next t) : Frame { pc := true } s t := by
  cases h; exact (s.setPc_frame w).cost m

theorem callTo_frame {w : Word} {m : Nat} (h : callTo w m s = .next t) :
    Frame { sp := true, pc := true, stores := [s.regs.sp - 1, s.regs.sp - 2] } s t := by
  cases h; exact ((s.push16_frame s.regs.pc).trans (State.setPc_frame _ w)).cost m

theorem returnFrom_frame {m : Nat} (h : returnFrom m s = .next t) : Frame { sp := true, pc := true } s t := by
  cases h; exact (s.afterPop_frame.trans (State.setPc_frame _ _)).cost m

theorem jumpIf_frame {cc : Cond} {w : Word} {m n : Nat} (h : jumpIf cc w m n s = .next t) : Frame { pc := true } s t := by
  rcases jumpIf_cases h with ⟨_, rfl⟩ | ⟨_, rfl⟩
  · exact (s.setPc_frame w).cost m
  · exact ((Frame.refl s).cost n).toPc

theorem callIf_frame {cc : Cond} {w : Word} (h : callIf cc w s = .next t) :
    Frame { sp := true, pc := true, stores := if s.cond cc then [s.regs.sp - 1, s.regs.sp - 2] else [] } s t := by
  rcases callIf_cases h with ⟨hc, rfl⟩ | ⟨hc, rfl⟩ <;> rw [hc]
  · exact ((s.push16_frame s.regs.pc).trans (State.setPc_frame _ w)).cost 6
  · exact ((Frame.refl s).cost 3).toPc.toSp

theorem returnIf_frame {cc : Cond} (h : returnIf cc s = .next t) : Frame { sp := true, pc := true } s t := by
  rcases returnIf_cases h with ⟨_, rfl⟩ | ⟨_, rfl⟩
  · exact (s.afterPop_frame.trans (State.setPc_frame _ _)).cost 5
  · exact ((Frame.refl s).cost 2).toPc.toSp

/-! ### The meanings of a form of their own -/

theorem execNop_frame (h : execNop s = .next t) : Frame {} s t := by
  cases h; exact (Frame.refl s).cost 1

theorem execHalting_frame (h : execHalting s = .next t) : Frame {} s t := by
  cases h; exact (Frame.refl s).cost 1

theorem execLdAtA16Sp_frame {w : Word} (h : execLdAtA16Sp w s = .next t) : Frame { stores := [w, w + 1] } s t := by
  cases h; exact ((s.store_footprint w _).trans (State.store_footprint _ (w + 1) _)).cost 5

theorem execLdSpHl_frame (h : execLdSpHl s = .next t) : Frame { sp := true } s t := by
  cases h; exact (s.setSp_frame s.hl).cost 2

theorem execAddSpE8_frame {e : Byte} (h : execAddSpE8 e s = .next t) : Frame { flags := ⟨.zero, .zero, .write, .write⟩, sp := true } s t := by
  cases h; exact ((s.setSp_frame _).trans (State.spPlusFlags_frame _ _ e)).cost 4

theorem execLdHlSpE8_frame {e : Byte} (h : execLdHlSpE8 e s = .next t) :
    Frame { flags := ⟨.zero, .zero, .write, .write⟩, regs := [.h, .l] } s t := by
  cases h; exact ((s.setHl_frame _).trans (State.spPlusFlags_frame _ _ e)).cost 3

theorem execIncAtHl_frame (h : execIncAtHl s = .next t) :
    Frame { flags := ⟨.write, .zero, .write, .keep⟩, stores := [s.hl] } s t := by
  cases h; exact (((s.afterLoad_frame s.hl).trans (State.store_footprint _ s.hl _)).trans (State.incFlags_frame _ _)).cost 3

theorem execDecAtHl_frame (h : execDecAtHl s = .next t) :
    Frame { flags := ⟨.write, .one, .write, .keep⟩, stores := [s.hl] } s t := by
  cases h; exact (((s.afterLoad_frame s.hl).trans (State.store_footprint _ s.hl _)).trans (State.decFlags_frame _ _)).cost 3

theorem execDaa_frame (h : execDaa s = .next t) : Frame { flags := ⟨.write, .keep, .zero, .write⟩, regs := [.a] } s t := by
  cases h; exact ((s.setReg8_frame .a _).trans (State.setFlags_frame _ ⟨.write, .keep, .zero, .write⟩ trivial rfl rfl trivial)).cost 1

theorem execCpl_frame (h : execCpl s = .next t) : Frame { flags := ⟨.keep, .one, .one, .keep⟩, regs := [.a] } s t := by
  cases h; exact ((s.setReg8_frame .a _).trans (State.setFlags_frame _ ⟨.keep, .one, .one, .keep⟩ rfl rfl rfl rfl)).cost 1

theorem execScf_frame (h : execScf s = .next t) : Frame { flags := ⟨.keep, .zero, .zero, .one⟩ } s t := by
  cases h; exact (s.setFlags_frame ⟨.keep, .zero, .zero, .one⟩ rfl rfl rfl rfl).cost 1

theorem execCcf_frame (h : execCcf s = .next t) : Frame { flags := ⟨.keep, .zero, .zero, .write⟩ } s t := by
  cases h; exact (s.setFlags_frame ⟨.keep, .zero, .zero, .write⟩ rfl rfl rfl trivial).cost 1

theorem execDi_frame (h : execDi s = .next t) : Frame { ime := true, eiDelay := true } s t := by
  cases h; exact .of_cpu rfl rfl rfl nofun nofun (fun _ => ⟨rfl, rfl⟩) ⟨rfl, rfl, rfl, rfl⟩

theorem execEi_frame (h : execEi s = .next t) : Frame { eiDelay := true } s t := by
  cases h
  refine Frame.cost ?_ 1
  split
  · exact .of_cpu rfl rfl rfl (fun _ => rfl) nofun (fun _ => ⟨rfl, rfl⟩) ⟨rfl, rfl, rfl, rfl⟩
  · exact { Frame.refl s with eiDelay := nofun }

theorem execHalt_frame (h : execHalt s = .next t) : Frame { halt := true } s t := by
  rcases execHalt_cases h with ⟨_, _, rfl⟩ | ⟨_, rfl⟩ <;>
    exact .of_cpu rfl rfl rfl (fun _ => rfl) (fun _ => rfl) nofun ⟨rfl, rfl, rfl, rfl⟩

theorem execReti_frame (h : execReti s = .next t) : Frame { sp := true, pc := true, ime := true } s t := by
  cases h
  have ime (u : State) : Frame { ime := true } u { u with cpu.ime := true } :=
    .of_cpu rfl rfl rfl nofun (fun _ => rfl) (fun _ => ⟨rfl, rfl⟩) ⟨rfl, rfl, rfl, rfl⟩
  exact ((s.afterPop_frame.trans (State.setPc_frame _ s.popVal)).trans (ime _)).cost 4

/-- The service of an interrupt: after its request is cleared, only PC moves (60_exceptions.md R206). -/
theorem execInterrupt_frame {k : IrqSource} (h : execInterrupt k s = .next t) : Frame { pc := true } (s.clearIrq k) t := by
  cases h; exact (State.setPc_frame _ _).cost 5

theorem execIntCancelled_frame (h : execIntCancelled s = .next t) : Frame { pc := true } s t := by
  cases h; exact (s.setPc_frame 0).cost 5

end

/-! ### The instruction's footprint -/

/-- The instructions that write IME while they run: DI and RETI (45_system.md R192, 44_control.md R190). -/
def writesIme : Instr → Bool
  | .di | .reti => true
  | _ => false

/-- The instructions that write the EI delay while they run: DI and EI (R192, R193). -/
def writesEiDelay : Instr → Bool
  | .di | .ei => true
  | _ => false

/-- The instruction that writes `halted` or `haltBug` while it runs (R195). -/
def writesHalt : Instr → Bool
  | .halt => true
  | _ => false

theorem writesIme_eq_false {i : Instr} (h : i ≠ .di) (g : i ≠ .reti) : writesIme i = false := by
  unfold writesIme; split
  · exact absurd rfl h
  · exact absurd rfl g
  · rfl

theorem writesEiDelay_eq_false {i : Instr} (h : i ≠ .di) (g : i ≠ .ei) : writesEiDelay i = false := by
  unfold writesEiDelay; split
  · exact absurd rfl h
  · exact absurd rfl g
  · rfl

theorem writesHalt_eq_false {i : Instr} (h : i ≠ .halt) : writesHalt i = false := by
  unfold writesHalt; split
  · exact absurd rfl h
  · rfl

/-- What the tables of the rules let an instruction change. -/
def footprint (i : Instr) (s : State) : Footprint where
  flags := i.flagEffects
  regs := i.destRegs
  sp := i.movesSp
  pc := i.movesPc
  ime := writesIme i
  eiDelay := writesEiDelay i
  halt := writesHalt i
  stores := storesTo i s

/-- The state with the request of a serviced interrupt cleared: the only change of IF that is no store. -/
def serviced (i : Instr) (s : State) : State :=
  match i with
  | .interrupt k => s.clearIrq k
  | _ => s


/-! ### The CB instructions (30_encoding.md R75) -/

/-- The field z names the memory operand where it names no register (R77). -/
theorem Reg8.ofField_eq_none_iff (b : Byte) : Reg8.ofField (fieldZ b) = none ↔ fieldZ b = 6 := by
  revert b; decide +kernel

/-- Whatever flags and registers change, they are among all of them. -/
theorem Frame.toAny {f : Footprint} {s t : State} (h : Frame f s t) :
    Frame { f with flags := ⟨.write, .write, .write, .write⟩, regs := [.b, .c, .d, .e, .h, .l, .a] } s t :=
  { h with flags := ⟨trivial, trivial, trivial, trivial, h.flags.low⟩, reg8 := fun r hr => absurd (by cases r <;> simp) hr }

/-- A CB instruction stores where its operand is the memory operand, and BIT stores nothing. -/
theorem runCb_frame {b : Byte} {s t : State} (h : runCb b s = .next t) :
    Frame { flags := ⟨.write, .write, .write, .write⟩, regs := [.b, .c, .d, .e, .h, .l, .a],
            stores := if fieldX b ≠ 1 ∧ fieldZ b = 6 then [s.hl] else [] } s t := by
  simp only [← Reg8.ofField_eq_none_iff]
  unfold runCb at h
  split at h
  next hx hr => simpa [hx, hr] using (shiftReg8_frame h).toAny
  next hx hr => simpa [hx, hr] using (shiftMem_frame h).toAny
  next hx hr => simpa [hx, hr] using (bitReg_frame h).toAny
  next hx hr => simpa [hx, hr] using (bitMem_frame h).toAny
  next hx hr => simpa [hx, hr] using (resReg_frame h).toAny
  next hx hr => simpa [hx, hr] using (resMem_frame h).toAny
  next hr _ _ _ => simpa [hr] using (setReg_frame h).toAny
  next hr _ hx _ => simpa [show fieldX b ≠ 1 from hx, hr] using (setMem_frame h).toAny

theorem execPrefixCb_frame {s t : State} (h : execPrefixCb s = .next t) : Frame (footprint .prefixCb s) s t := by
  have hl : s.afterFetch.hl = s.hl := by simp [State.hl, State.afterFetch_regs]
  have k := s.afterFetch_frame.trans (runCb_frame h)
  rw [hl] at k
  exact k

/-! ### Every instruction -/

/-- Every instruction changes only what the tables of the rules name. -/
theorem exec_frame {i : Instr} {s t : State} (h : exec i s = .next t) : Frame (footprint i s) (serviced i s) t := by
  cases i with
  | ldBB | ldBC | ldBD | ldBE | ldBH | ldBL | ldBA | ldCB | ldCC | ldCD | ldCE | ldCH | ldCL | ldCA | ldDB | ldDC | ldDD | ldDE | ldDH
    | ldDL | ldDA | ldEB | ldEC | ldED | ldEE | ldEH | ldEL | ldEA | ldHB | ldHC | ldHD | ldHE | ldHH | ldHL | ldHA | ldLB | ldLC | ldLD
    | ldLE | ldLH | ldLL | ldLA | ldAB | ldAC | ldAD | ldAE | ldAH | ldAL | ldAA => exact ldRegFromReg_frame h
  | ldBN8 | ldCN8 | ldDN8 | ldEN8 | ldHN8 | ldLN8 | ldAN8 => exact ldRegFromImm_frame h
  | ldAAtBc | ldAAtDe | ldBAtHl | ldCAtHl | ldDAtHl | ldEAtHl | ldHAtHl | ldLAtHl | ldAAtHl | ldhAAtA8 | ldAAtC | ldAAtA16 =>
      exact ldRegFromMem_frame h
  | ldAAtHlInc | ldAAtHlDec => exact ldAtHlMove_frame h
  | ldAtBcA | ldAtDeA | ldAtHlN8 | ldAtHlB | ldAtHlC | ldAtHlD | ldAtHlE | ldAtHlH | ldAtHlL | ldAtHlA | ldhAtA8A | ldAtCA | ldAtA16A =>
      exact stMem_frame h
  | ldAtHlIncA | ldAtHlDecA => exact stAtHlMove_frame h
  | ldBcN16 | ldDeN16 | ldHlN16 | ldSpN16 => exact ldPairFromImm_frame h
  | ldAtA16Sp => exact execLdAtA16Sp_frame h
  | ldSpHl => exact execLdSpHl_frame h
  | pushBc | pushDe | pushHl | pushAf => exact pushPair_frame h
  | popBc | popDe | popHl | popAf => exact popPair_frame h
  | addAB | addAC | addAD | addAE | addAH | addAL | addAA | adcAB | adcAC | adcAD | adcAE | adcAH | adcAL | adcAA | subAB | subAC | subAD
    | subAE | subAH | subAL | subAA | sbcAB | sbcAC | sbcAD | sbcAE | sbcAH | sbcAL | sbcAA | andAB | andAC | andAD | andAE | andAH | andAL
    | andAA | xorAB | xorAC | xorAD | xorAE | xorAH | xorAL | xorAA | orAB | orAC | orAD | orAE | orAH | orAL | orAA | cpAB | cpAC | cpAD
    | cpAE | cpAH | cpAL | cpAA => exact aluReg_frame h
  | addAAtHl | adcAAtHl | subAAtHl | sbcAAtHl | andAAtHl | xorAAtHl | orAAtHl | cpAAtHl => exact aluAtHl_frame h
  | addAN8 | adcAN8 | subAN8 | sbcAN8 | andAN8 | xorAN8 | orAN8 | cpAN8 => exact aluImm_frame h
  | incB | incC | incD | incE | incH | incL | incA => exact incReg8_frame h
  | decB | decC | decD | decE | decH | decL | decA => exact decReg8_frame h
  | incAtHl => exact execIncAtHl_frame h
  | decAtHl => exact execDecAtHl_frame h
  | daa => exact execDaa_frame h
  | cpl => exact execCpl_frame h
  | scf => exact execScf_frame h
  | ccf => exact execCcf_frame h
  | incBc | incDe | incHl | incSp => exact incPair16_frame h
  | decBc | decDe | decHl | decSp => exact decPair16_frame h
  | addHlBc | addHlDe | addHlHl | addHlSp => exact addHl16_frame h
  | addSpE8 => exact execAddSpE8_frame h
  | ldHlSpE8 => exact execLdHlSpE8_frame h
  | rlca | rrca | rla | rra => exact rotA_frame h
  | rlcR | rrcR | rlR | rrR | slaR | sraR | swapR | srlR => exact shiftReg8_frame h
  | rlcAtHl | rrcAtHl | rlAtHl | rrAtHl | slaAtHl | sraAtHl | swapAtHl | srlAtHl => exact shiftMem_frame h
  | bitBR => exact bitReg_frame h
  | bitBAtHl => exact bitMem_frame h
  | resBR => exact resReg_frame h
  | resBAtHl => exact resMem_frame h
  | setBR => exact setReg_frame h
  | setBAtHl => exact setMem_frame h
  | prefixCb => exact execPrefixCb_frame h
  | jrE8 | jpA16 | jpHl => exact jumpTo_frame h
  | jrNzE8 | jrZE8 | jrNcE8 | jrCE8 | jpNzA16 | jpZA16 | jpNcA16 | jpCA16 => exact jumpIf_frame h
  | rst00 | callA16 | rst08 | rst10 | rst18 | rst20 | rst28 | rst30 | rst38 => exact callTo_frame h
  | callNzA16 | callZA16 | callNcA16 | callCA16 => exact callIf_frame h
  | ret => exact returnFrom_frame h
  | retNz | retZ | retNc | retC => exact returnIf_frame h
  | reti => exact execReti_frame h
  | nop => exact execNop_frame h
  | di => exact execDi_frame h
  | ei => exact execEi_frame h
  | halt => exact execHalt_frame h
  | halting => exact execHalting_frame h
  | interrupt => exact execInterrupt_frame h
  | intCancelled => exact execIntCancelled_frame h
  | stop | illegalD3 | illegalDB | illegalDD | illegalE3 | illegalE4 | illegalEB | illegalEC | illegalED | illegalF4 | illegalFC | illegalFD =>
      cases h

/-! ### The frames over all instructions (00_scope.md R16) -/

/-- The clearing of a request, where there is one, leaves the registers and the control state. -/
@[simp] theorem serviced_regs (i : Instr) (s : State) : (serviced i s).regs = s.regs := by unfold serviced; split <;> rfl
@[simp] theorem serviced_cpu (i : Instr) (s : State) : (serviced i s).cpu = s.cpu := by unfold serviced; split <;> rfl
@[simp] theorem serviced_reg8 (i : Instr) (s : State) (r : Reg8) : (serviced i s).reg8 r = s.reg8 r := by
  unfold serviced; split <;> cases r <;> rfl

theorem serviced_of_ne {i : Instr} (h : ∀ k, i ≠ .interrupt k) (s : State) : serviced i s = s := by
  unfold serviced
  split
  · exact absurd rfl (h _)
  · rfl

/-- The clearing of a request changes nothing but IF. -/
theorem serviced_eq (i : Instr) (s : State) : serviced i s = { s with irq.ifl := (serviced i s).irq.ifl } := by
  unfold serviced; split <;> rfl

/-- The clearing of a request is a write of the register IF. -/
theorem State.clearIrq_eq_ioWrite (s : State) (k : IrqSource) :
    s.clearIrq k = s.ioWrite ((s.irq.ifl &&& ~~~ irqMask k).setWidth 8) .ifl := by
  simp [State.clearIrq, State.ioWrite]

/-- The bypass path sees the clearing of a request at IF alone. -/
theorem peek_serviced (i : Instr) (s : State) {b : Word} (h : ∀ k, i = .interrupt k → b ≠ 0xFF0F) : (serviced i s).peek b = s.peek b := by
  unfold serviced
  split
  next k =>
    have hb : (0xFF0F : Word).toNat ≠ b.toNat := fun c => h k rfl (BitVec.eq_of_toNat_eq c).symm
    have hr : ioReg ((0xFF0F : Word).toNat - 0xFF00) = .ifl := by decide
    rw [State.clearIrq_eq_ioWrite, ← hr]
    exact s.peek_ioWrite _ (by decide) (by decide) hb (fun c => absurd c.1 (by decide)) (fun c => absurd c.1 (by decide))
  next => rfl

/-- Settles O32: the flags' part of the frame of every instruction. -/
theorem flagsAreThoseOfTheRules : Obligations.FlagsAreThoseOfTheRules := by
  intro i s t h
  obtain ⟨hz, hn, hh, hc, hl⟩ := (exec_frame h).flags
  simp only [State.flagZ, State.flagN, State.flagH, State.flagC, serviced_regs] at hz hn hh hc hl
  exact ⟨hz, hn, hh, hc, hl⟩

/-- Settles O33: the registers' and the control state's part of the frame of every instruction. -/
theorem registerFrame : Obligations.RegisterFrame := by
  intro i s t h
  have f := exec_frame h
  refine ⟨fun r hr => ?_, fun hsp => ?_, fun hpc => ?_, fun hdi hreti => ?_, fun hdi hei => ?_, fun hhalt => ?_, ?_⟩
  · simpa using f.reg8 r hr
  · simpa using f.sp hsp
  · simpa using f.pc hpc
  · simpa using f.ime (writesIme_eq_false hdi hreti)
  · simpa using f.eiDelay (writesEiDelay_eq_false hdi hei)
  · simpa using f.halt (writesHalt_eq_false hhalt)
  · simpa using f.record

/-- Settles O34: an instruction is its stores, after the clearing of the request that it services. -/
theorem memoryAndDeviceFrame : Obligations.MemoryAndDeviceFrame := by
  intro i s t w h
  have f : StoresOnly (storesTo i s) (serviced i s) t := (exec_frame h).stores
  have e := serviced_eq i s
  have w' : MemInv (serviced i s) := by rw [e]; exact w
  refine ⟨fun k hk => ?_, fun b hb hi => ?_, ?_, ?_, ?_, fun hl => ?_⟩
  · rw [f.ram w' k hk, e]; rfl
  · rw [f.peek w' b hb, peek_serviced i s hi]
  · have q := f.fixed
    rw [e] at q
    exact q
  · rw [f.out, e]
  · rw [f.ticks, e]
  · obtain ⟨hirq, htimer, hlcd, hppu, hdma, hcart, hoverlay, hcartRam⟩ := f.devices hl
    refine ⟨fun hk => by rw [hirq, serviced_of_ne hk], ?_, ?_, ?_, ?_, ?_, ?_, ?_, ?_⟩
    · rw [hirq, e]
    · rw [htimer, e]
    · rw [hlcd, e]
    · rw [hppu, e]
    · rw [hdma, e]
    · rw [hcart, e]
    · rw [hoverlay, e]
    · rw [hcartRam, e]

end Sys2Proof.Machine
end

section
/-! SUPPORT. What a whole step leaves fixed: the images, the parameters, a boot overlay that is off, and all but the head of the outputs. -/

namespace Sys2Proof.Machine

/-! ### The fixed parts -/

/-- An output stays, or has one entry more, at its head: the outputs stand newest first (60_exceptions.md R238). -/
def OneMore {α : Type} (old new : List α) : Prop := new = old ∨ ∃ x, new = x :: old

/-- The fixed parts stay, a boot overlay that is off stays off (20_memory.md R51), and no tick passes. -/
structure FixedKept (s t : State) : Prop where
  fixed : SameFixed s t
  overlay : t.bus.bootOverlay = true → s.bus.bootOverlay = true
  ticks : t.ticks = s.ticks

theorem FixedKept.of_eq {s t : State} (hbus : t.bus = s.bus) (hcart : t.cart = s.cart) (hsource : t.env.source = s.env.source)
    (hparams : t.params = s.params) (hticks : t.ticks = s.ticks) : FixedKept s t where
  fixed := by unfold SameFixed; rw [hbus, hcart]; exact ⟨rfl, rfl, rfl, hsource, hparams, rfl⟩
  overlay := by rw [hbus]; exact id
  ticks := hticks

theorem FixedKept.refl (s : State) : FixedKept s s := .of_eq rfl rfl rfl rfl rfl

theorem FixedKept.trans {s t u : State} (h : FixedKept s t) (g : FixedKept t u) : FixedKept s u where
  fixed := by
    obtain ⟨a1, a2, a3, a4, a5, a6⟩ := h.fixed
    obtain ⟨b1, b2, b3, b4, b5, b6⟩ := g.fixed
    exact ⟨b1.trans a1, b2.trans a2, b3.trans a3, b4.trans a4, b5.trans a5, b6.trans a6⟩
  overlay e := h.overlay (g.overlay e)
  ticks := g.ticks.trans h.ticks

/-- A frame is made of stores and updates of the CPU, and none of them changes the fixed parts. -/
theorem Frame.fixedKept {f : Footprint} {s t : State} (h : Frame f s t) : FixedKept s t := ⟨h.stores.fixed, h.overlay, h.stores.ticks⟩

theorem SameButPixels.fixedKept {s t : State} (h : SameButPixels s t) : FixedKept s t :=
  .of_eq h.bus h.cart (by rw [h.env]) h.params h.ticks

/-! ### The cycle (30_encoding.md R71) -/

theorem exec_fixedKept {i : Instr} {s t : State} (h : exec i s = .next t) : FixedKept s t ∧ t.out = s.out := by
  have f := exec_frame h
  have k : FixedKept s (serviced i s) := by rw [serviced_eq]; exact .of_eq rfl rfl rfl rfl rfl
  exact ⟨k.trans f.fixedKept, f.stores.out.trans (by rw [serviced_eq])⟩

theorem beginCycle_fixedKept (s : State) : FixedKept s (beginCycle s) := by
  obtain ⟨_, _, e, _⟩ := beginCycle_eq s
  rw [e]
  exact .of_eq rfl rfl rfl rfl rfl

theorem afterFetch_fixedKept (s : State) : FixedKept s s.afterFetch := s.afterFetch_frame.fixedKept

theorem fetchOpcode_fixedKept (s : State) : FixedKept s (fetchOpcode s).2 ∧ (fetchOpcode s).2.out = s.out := by
  have k : FixedKept s (if s.cpu.haltBug then { s.afterLoad s.regs.pc with cpu.haltBug := false } else s.afterFetch)
      ∧ (if s.cpu.haltBug then { s.afterLoad s.regs.pc with cpu.haltBug := false } else s.afterFetch).out = s.out := by
    split
    · exact ⟨.of_eq (by simp) (by simp) (by simp) (by simp) (by simp), by simp⟩
    · exact ⟨afterFetch_fixedKept s, by simp⟩
  unfold fetchOpcode
  dsimp only
  split
  · exact ⟨k.1.trans (afterFetch_fixedKept _), (State.afterFetch_out _).trans k.2⟩
  · exact k

theorem selectOpcode_fixedKept (s : State) : FixedKept s (selectOpcode s).2 ∧ (selectOpcode s).2.out = s.out := by
  have hw : FixedKept s s.woken ∧ s.woken.out = s.out := by
    rcases s.woken_cases with e | ⟨_, _, e⟩ <;> rw [e]
    · exact ⟨.refl s, rfl⟩
    · exact ⟨.of_eq rfl rfl rfl rfl rfl, rfl⟩
  have hf := fetchOpcode_fixedKept s.woken
  unfold selectOpcode
  split
  · rw [interruptEntry_eq]
    have cleared : FixedKept s s.entryCleared := .of_eq rfl rfl rfl rfl rfl
    exact ⟨cleared.trans (State.push16_frame _ _).fixedKept, State.push16_out _ _⟩
  · split
    · exact hw
    · exact ⟨hw.1.trans hf.1, hf.2.trans hw.2⟩

theorem fetchOperands_fixedKept (op : OpcodeId) (s : State) :
    FixedKept s (fetchOperands op s).2 ∧ (fetchOperands op s).2.out = s.out := by
  unfold fetchOperands
  split
  · split
    · exact ⟨.refl s, rfl⟩
    · exact ⟨afterFetch_fixedKept s, by simp⟩
    · exact ⟨(afterFetch_fixedKept s).trans (afterFetch_fixedKept _), by simp⟩
  all_goals exact ⟨.refl s, rfl⟩

/-- A cycle up to its instruction adds one record to the trace (60_exceptions.md R212). -/
theorem fetchInstr_fixedKept (s : State) :
    FixedKept s (fetchInstr s).2 ∧ (∃ r, (fetchInstr s).2.out.trace = r :: s.out.trace) ∧ (fetchInstr s).2.out.image = s.out.image := by
  have hsel := selectOpcode_fixedKept (beginCycle s)
  have published (op : OpcodeId) (u : State) : FixedKept u (publishTrace op u) := .of_eq rfl rfl rfl rfl rfl
  unfold fetchInstr
  dsimp only
  generalize selectOpcode (beginCycle s) = q at hsel ⊢
  obtain ⟨ksel, osel⟩ := hsel
  obtain ⟨kop, oop⟩ := fetchOperands_fixedKept q.1 (publishTrace q.1 q.2)
  rw [beginCycle_out] at osel
  rw [oop]
  exact ⟨((beginCycle_fixedKept s).trans ksel).trans ((published _ _).trans kop),
    ⟨_, congrArg (List.cons _) (congrArg Outputs.trace osel)⟩, (congrArg Outputs.image osel : q.2.out.image = s.out.image)⟩

/-- A CPU step adds at most one record to the trace and no pixel. -/
theorem cpuStep_fixedKept {s t : State} (h : cpuStep s = .next t) :
    FixedKept s t ∧ OneMore s.out.trace t.out.trace ∧ t.out.image = s.out.image := by
  unfold cpuStep at h
  split at h
  · cases h
    exact ⟨.of_eq rfl rfl rfl rfl rfl, .inl rfl, rfl⟩
  · obtain ⟨kf, ⟨r, hr⟩, hi⟩ := fetchInstr_fixedKept s
    obtain ⟨ke, ho⟩ := exec_fixedKept h
    exact ⟨kf.trans ke, .inr ⟨r, by rw [ho, hr]⟩, by rw [ho, hi]⟩

/-! ### The devices (20_memory.md R66) -/

/-- A DRAW dot puts out at most one pixel (60_exceptions.md R222, R226). -/
theorem drawDot_image (s : State) : OneMore s.out.image (drawDot s).out.image := by
  obtain ⟨_, _, _, e⟩ := drawDot_frame s
  rw [e]
  split
  · exact .inl rfl
  · exact .inr ⟨_, rfl⟩

/-- A dot puts out at most one pixel (R218). -/
theorem dotWork_image (s : State) : OneMore s.out.image (dotWork s).out.image := by
  have h0 : (if s.ppu.dot = 0 then lineStart s else s).out = s.out := by
    split
    · exact (lineStart_frame s).2.2.1
    · rfl
  unfold dotWork
  dsimp only
  generalize (if s.ppu.dot = 0 then lineStart s else s) = s1 at h0
  rw [← h0]
  have idle : OneMore s1.out.image s1.out.image := .inl rfl
  split
  · split
    · split
      · exact idle
      · exact idle
    · split
      · exact drawDot_image { s1 with ppu := _ }
      · split
        · exact drawDot_image s1
        · exact idle
  · exact idle

theorem ppuStep_fixedKept (s : State) :
    FixedKept s (ppuStep s) ∧ (ppuStep s).out.trace = s.out.trace
      ∧ OneMore s.out.image (ppuStep s).out.image := by
  cases hon : s.ppu.on with
  | false => rw [ppuStep_off s hon]; exact ⟨.refl s, rfl, .inl rfl⟩
  | true =>
    obtain ⟨k, o, _⟩ := ppuStep_frame s hon
    exact ⟨k.fixedKept, k.trace, o ▸ dotWork_image s⟩

theorem timerTick_fixedKept (s : State) : FixedKept s (timerTick s) ∧ (timerTick s).out = s.out := by
  rw [timerTick_frame]; exact ⟨.of_eq rfl rfl rfl rfl rfl, rfl⟩

theorem dmaTick_fixedKept (s : State) : FixedKept s (dmaTick s) ∧ (dmaTick s).out = s.out := by
  have poke (a : Word) (v : Byte) : FixedKept s (s.poke a v) ∧ (s.poke a v).out = s.out := by
    obtain ⟨_, _, hcart, henv, hparams, hout, hticks, _, hboot, hrom, hlen, hov⟩ := s.poke_frame a v
    exact ⟨⟨⟨hboot, hrom, hlen, by rw [henv], hparams, by rw [hcart]⟩, by rw [hov]; exact id, hticks⟩, hout⟩
  have setDma (u : State) (d : Dma) : FixedKept u { u with dma := d } := .of_eq rfl rfl rfl rfl rfl
  unfold dmaTick
  split
  · split
    · exact ⟨(poke _ _).1.trans (setDma _ _), (poke _ _).2⟩
    · exact ⟨setDma _ _, rfl⟩
  · exact ⟨.refl s, rfl⟩

theorem envStep_fixedKept (s : State) : FixedKept s (envStep s) ∧ (envStep s).out = s.out := by
  obtain ⟨_, e, _⟩ := envStep_eq s
  rw [e]
  exact ⟨.of_eq rfl rfl rfl rfl rfl, rfl⟩

/-- The devices' part of a tick counts it and puts out at most one pixel. -/
theorem devices_fixedKept (s : State) :
    ∃ t, devices s = { t with ticks := t.ticks + 1 } ∧ FixedKept s t ∧ t.out.trace = s.out.trace
      ∧ OneMore s.out.image t.out.image := by
  obtain ⟨kt, ot⟩ := timerTick_fixedKept s
  obtain ⟨kp, tr, im⟩ := ppuStep_fixedKept (timerTick s)
  obtain ⟨kd, od⟩ := dmaTick_fixedKept (ppuStep (timerTick s))
  obtain ⟨ke, oe⟩ := envStep_fixedKept (dmaTick (ppuStep (timerTick s)))
  rw [← oe.trans od, ot] at tr im
  exact ⟨_, rfl, ((kt.trans kp).trans kd).trans ke, tr, im⟩

/-! ### The step -/

theorem tick_cases {s t : State} (h : tick s = .next t) : ∃ u, cpuStep s = .next u ∧ t = devices u := by
  unfold tick at h
  split at h
  next u hu => cases h; exact ⟨u, hu, rfl⟩
  all_goals cases h

/-- A step that answers a next state is the CPU's step and then the devices' (R66): a stopped machine answers none. -/
theorem step_cases {s t : State} (h : step s = .next t) : ∃ u, cpuStep s = .next u ∧ t = devices u := by
  unfold step at h
  split at h
  next r hr =>
    subst h
    unfold State.stopped at hr
    split at hr <;> cases hr
  next => exact tick_cases h

theorem step_fixedKept {s t : State} (h : step s = .next t) :
    SameFixed s t ∧ t.ticks = s.ticks + 1 ∧ (t.bus.bootOverlay = true → s.bus.bootOverlay = true)
      ∧ OneMore s.out.trace t.out.trace
      ∧ OneMore s.out.image t.out.image := by
  obtain ⟨u, hu, rfl⟩ := step_cases h
  obtain ⟨kc, tr, im⟩ := cpuStep_fixedKept hu
  obtain ⟨v, e, kd, dtr, dim⟩ := devices_fixedKept u
  rw [im] at dim
  rw [← dtr] at tr
  have k := kc.trans kd
  rw [e]
  exact ⟨k.fixed, congrArg (· + 1) k.ticks, k.overlay, tr, dim⟩

/-! ### Stores to the controller (20_memory.md R60) -/

section
variable {s : State} {a : Word} (v : Byte) (ha : a.toNat ≤ 0x7FFF)
include ha

theorem State.store_romOnly (h : s.cart = .romOnly) : s.store a v = s := by
  rw [State.store_rom v ha, State.cartStore, h]

theorem State.store_bank5 {b : BitVec 5} (h : s.cart = .bank5 b) :
    s.store a v =
      { s with cart := .bank5 (if 0x2000 ≤ a.toNat ∧ a.toNat ≤ 0x3FFF then (if v.setWidth 5 = 0 then 1 else v.setWidth 5) else b) } := by
  rw [State.store_rom v ha, State.cartStore, h]
  dsimp only
  split
  · rfl
  · rw [← h]

theorem State.store_given {r : CartRecord} {st : Nat} (h : s.cart = .given r st) :
    s.store a v = { s with cart := .given r (r.store.eval st a v) } := by
  rw [State.store_rom v ha, State.cartStore, h]

theorem State.store_external {x : CartAnswers} (h : s.cart = .external x) :
    s.store a v = { s with cart := .external (Config.cartAnswers s.env.draws x a v), env.draws := s.env.draws + 1 } := by
  rw [State.store_rom v ha, State.cartStore, h]

end

/-- Settles O40: a step is the CPU's and then the devices', each of which keeps the fixed parts; the stores by the kind of controller. -/
theorem imagesOverlayAndOutputsOverAStep : Obligations.ImagesOverlayAndOutputsOverAStep := by
  refine ⟨fun s t h => step_fixedKept h, fun s a v ha h => State.store_romOnly v ha h, fun s a v b ha h => State.store_bank5 v ha h,
    fun s a v r st ha h => State.store_given v ha h, fun s a v n answers hook st => ?_, fun s a v x ha h => State.store_external v ha h⟩
  intro r ha hst h
  refine ⟨?_, ?_⟩
  · rw [h]
    exact CartRecord.ofFunctions_answers hst answers hook
  · rw [State.store_given v ha h, CartRecord.ofFunctions_store hst answers hook ha v]

end Sys2Proof.Machine
end

section
/-! SUPPORT. The cost of every instruction, and the control state over a cycle: the ranges of 10_state.md R26, and a CPU with the halt bug is not
halted. -/

namespace Sys2Proof.Machine

/-! ### The cost of an instruction (70_reset_and_hazards.md R241, R252) -/

section
variable {s t : State} {cc : Cond} {w : Word}

theorem jumpIf_cpuWait {m n : Nat} (h : jumpIf cc w m n s = .next t) : t.cpu.cpuWait = 4 * (if s.cond cc then m else n) - 1 := by
  rcases jumpIf_cases h with ⟨hc, rfl⟩ | ⟨hc, rfl⟩ <;> rw [hc] <;> rfl

theorem callIf_cpuWait (h : callIf cc w s = .next t) : t.cpu.cpuWait = 4 * (if s.cond cc then 6 else 3) - 1 := by
  rcases callIf_cases h with ⟨hc, rfl⟩ | ⟨hc, rfl⟩ <;> rw [hc] <;> rfl

theorem returnIf_cpuWait (h : returnIf cc s = .next t) : t.cpu.cpuWait = 4 * (if s.cond cc then 5 else 2) - 1 := by
  rcases returnIf_cases h with ⟨hc, rfl⟩ | ⟨hc, rfl⟩ <;> rw [hc] <;> rfl

end

/-- Every instruction but the prefix waits for the M-cycles of its row, by the case of its condition. -/
theorem exec_cpuWait {i : Instr} {s t : State} (h : exec i s = .next t) (hp : i ≠ .prefixCb) :
    t.cpu.cpuWait = 4 * i.mCycles (s.taken i) - 1 := by
  cases i with
  | jrNzE8 | jrZE8 | jrNcE8 | jrCE8 | jpNzA16 | jpZA16 | jpNcA16 | jpCA16 => exact jumpIf_cpuWait h
  | callNzA16 | callZA16 | callNcA16 | callCA16 => exact callIf_cpuWait h
  | retNz | retZ | retNc | retC => exact returnIf_cpuWait h
  | halt => rcases execHalt_cases h with ⟨_, _, rfl⟩ | ⟨_, rfl⟩ <;> rfl
  | prefixCb => exact absurd rfl hp
  | stop | illegalD3 | illegalDB | illegalDD | illegalE3 | illegalE4 | illegalEB | illegalEC | illegalED | illegalF4 | illegalFC | illegalFD =>
      cases h
  | _ => cases h; rfl

/-- No row of the opcode table has more than 6 M-cycles. -/
theorem mCycles_le_six (i : Instr) (taken : Bool) : i.mCycles taken ≤ 6 := by
  cases i with
  | jrNzE8 | jrZE8 | jrNcE8 | jrCE8 | jpNzA16 | jpZA16 | jpNcA16 | jpCA16 | callNzA16 | callZA16 | callNcA16 | callCA16 | retNz | retZ
    | retNc | retC => cases taken <;> exact Nat.le_of_ble_eq_true rfl
  | _ => exact Nat.le_of_ble_eq_true rfl

/-- The wait after a cycle is at most that of 6 M-cycles; the prefix costs what the instruction that it selects costs (30_encoding.md R75). -/
theorem exec_cpuWait_le {i : Instr} {s t : State} (h : exec i s = .next t) : t.cpu.cpuWait ≤ 23 := by
  have bound {j : Instr} {u : State} (hj : exec j u = .next t) (hp : j ≠ .prefixCb) : t.cpu.cpuWait ≤ 23 := by
    have hw := exec_cpuWait hj hp
    have hm := mCycles_le_six j (u.taken j)
    omega
  by_cases hp : i = .prefixCb
  · subst hp
    exact bound ((runCb_eq s.fetchVal s.afterFetch).symm.trans h) (decodeCb_ne_prefixCb _)
  · exact bound h hp

/-! ### The control state over a cycle (10_state.md R26) -/

/-- The invariant of the control state is one of `Cpu` alone. -/
theorem CpuInv.congr {s t : State} (e : t.cpu = s.cpu) (h : CpuInv s) : CpuInv t := by unfold CpuInv at h ⊢; rwa [e]

/-- The EI delay is at most 2 after an instruction: DI clears it, EI sets it to 2 (45_system.md R192, R193). -/
theorem exec_eiDelay_le {i : Instr} {s t : State} (h : exec i s = .next t) (hd : s.cpu.eiDelay ≤ 2) : t.cpu.eiDelay ≤ 2 := by
  by_cases hdi : i = .di
  · subst hdi; cases h; exact Nat.zero_le 2
  by_cases hei : i = .ei
  · subst hei; cases h
    show (if s.cpu.eiDelay = 0 then { s with cpu.eiDelay := 2 } else s).cpu.eiDelay ≤ 2
    split
    · exact Nat.le_refl 2
    · exact hd
  · have e := (exec_frame h).eiDelay (writesEiDelay_eq_false hdi hei)
    rw [serviced_cpu] at e
    rwa [e]

/-- Only HALT sets `halted` or `haltBug`, one of them: a CPU in which neither was set does not come to have both (R195). -/
theorem exec_not_halted_with_bug {i : Instr} {s t : State} (h : exec i s = .next t)
    (hb : ¬(s.cpu.halted = true ∧ s.cpu.haltBug = true)) (hi : i = .halt → s.cpu.halted = false ∧ s.cpu.haltBug = false) :
    ¬(t.cpu.halted = true ∧ t.cpu.haltBug = true) := by
  by_cases hh : i = .halt
  · obtain ⟨halted, bug⟩ := hi hh
    subst hh
    rcases execHalt_cases h with ⟨_, _, rfl⟩ | ⟨_, rfl⟩
    · exact fun c => Bool.false_ne_true (halted.symm.trans c.1)
    · exact fun c => Bool.false_ne_true (bug.symm.trans c.2)
  · obtain ⟨e, e'⟩ := (exec_frame h).halt (writesHalt_eq_false hh)
    rw [serviced_cpu] at e e'
    rwa [e, e']

/-- An instruction keeps the control state in its ranges, HALT where it does not run on a halted CPU or under the halt bug. -/
theorem exec_cpuInv {i : Instr} {s t : State} (h : CpuInv s) (hi : i = .halt → s.cpu.halted = false ∧ s.cpu.haltBug = false)
    (ht : exec i s = .next t) : CpuInv t := by
  obtain ⟨delay, _, halt⟩ := h
  exact ⟨exec_eiDelay_le ht delay, exec_cpuWait_le ht, exec_not_halted_with_bug ht halt hi⟩

theorem beginCycle_cpuInv {s : State} (h : CpuInv s) : CpuInv (beginCycle s) := by
  obtain ⟨delay, wait, halt⟩ := h
  obtain ⟨ime, d, e, _, hd⟩ := beginCycle_eq s
  rw [e]
  exact ⟨hd.trans delay, wait, halt⟩

theorem State.woken_cpuInv {s : State} (h : CpuInv s) : CpuInv s.woken := by
  obtain ⟨delay, wait, halt⟩ := h
  rcases s.woken_cases with e | ⟨_, _, e⟩ <;> rw [e]
  · exact ⟨delay, wait, halt⟩
  · exact ⟨delay, wait, fun c => Bool.false_ne_true c.1⟩

/-- Step 3 of a cycle dispatches an interrupt, stays halted, or fetches an opcode on a CPU that is not halted (30_encoding.md R71). -/
theorem selectOpcode_cases (s : State) :
    selectOpcode s = interruptEntry s ∨ selectOpcode s = (.halting, s.woken)
      ∨ (s.woken.cpu.halted = false ∧ selectOpcode s = fetchOpcode s.woken) := by
  unfold selectOpcode
  split
  · exact .inl rfl
  · split
    · exact .inr (.inl rfl)
    next hh => exact .inr (.inr ⟨Bool.eq_false_iff.2 hh, rfl⟩)

/-- An opcode fetch clears the halt bug and leaves the rest of the control state (45_system.md R198). -/
theorem fetchOpcode_cpu (s : State) : (fetchOpcode s).2.cpu = { s.cpu with haltBug := false } := by
  have fetched : (if s.cpu.haltBug then { s.afterLoad s.regs.pc with cpu.haltBug := false } else s.afterFetch).cpu
      = { s.cpu with haltBug := false } := by
    split
    · simp
    next hb => rw [State.afterFetch_cpu, ← Bool.eq_false_iff.2 hb]
  unfold fetchOpcode
  dsimp only
  split
  · rw [State.afterFetch_cpu, fetched]
  · exact fetched

theorem fetchOperands_cpu (op : OpcodeId) (s : State) : (fetchOperands op s).2.cpu = s.cpu := by
  unfold fetchOperands
  split
  · split <;> simp
  all_goals rfl

/-- After step 3 the control state is in its ranges, and neither halted nor under the halt bug unless the halting sentinel was chosen. -/
theorem selectOpcode_cpuInv {s : State} (h : CpuInv s) :
    CpuInv (selectOpcode s).2
      ∧ ((selectOpcode s).1 = .halting ∨ ((selectOpcode s).2.cpu.halted = false ∧ (selectOpcode s).2.cpu.haltBug = false)) := by
  obtain ⟨delay, wait, halt⟩ := State.woken_cpuInv h
  rcases selectOpcode_cases s with e | e | ⟨hh, e⟩
  · have c : (selectOpcode s).2.cpu = s.entryCleared.cpu := by rw [e, interruptEntry_eq]; exact State.push16_cpu _ _
    rw [c]
    exact ⟨CpuInv.congr c ⟨Nat.zero_le 2, h.2.1, fun b => Bool.false_ne_true b.1⟩, .inr ⟨rfl, rfl⟩⟩
  · rw [e]
    exact ⟨⟨delay, wait, halt⟩, .inl rfl⟩
  · have c : (selectOpcode s).2.cpu = { s.woken.cpu with haltBug := false } := by rw [e, fetchOpcode_cpu]
    rw [c]
    exact ⟨CpuInv.congr (s := { s.woken with cpu.haltBug := false }) c ⟨delay, wait, fun b => Bool.false_ne_true b.2⟩, .inr ⟨hh, rfl⟩⟩

/-- An instruction is reached with the control state in its ranges, HALT on a CPU that is neither halted nor under the halt bug. -/
theorem fetchInstr_cpuInv {s : State} (h : CpuInv s) :
    CpuInv (fetchInstr s).2
      ∧ ((fetchInstr s).1 = .halt → (fetchInstr s).2.cpu.halted = false ∧ (fetchInstr s).2.cpu.haltBug = false) := by
  obtain ⟨inv, halting⟩ := selectOpcode_cpuInv (beginCycle_cpuInv h)
  unfold fetchInstr
  dsimp only
  generalize selectOpcode (beginCycle s) = q at inv halting
  have c := fetchOperands_cpu q.1 (publishTrace q.1 q.2)
  rw [c]
  refine ⟨CpuInv.congr (s := publishTrace q.1 q.2) c inv, fun hi => halting.resolve_left fun hq => ?_⟩
  rw [hq] at hi
  exact absurd hi nofun

theorem cpuStep_cpuInv {s t : State} (h : CpuInv s) (ht : cpuStep s = .next t) : CpuInv t := by
  unfold cpuStep at ht
  split at ht
  · obtain ⟨delay, wait, halt⟩ := h
    cases ht
    exact ⟨delay, (Nat.sub_le _ _).trans wait, halt⟩
  · obtain ⟨inv, halting⟩ := fetchInstr_cpuInv h
    exact exec_cpuInv inv halting ht

end Sys2Proof.Machine
end

section
/-! SUPPORT. Every step keeps the invariant of a run: first the CPU's part of the tick, then the devices'. -/

namespace Sys2Proof.Machine

/-! ### What each part of the invariant depends on -/

theorem FlagInv.congr {s t : State} (e : t.regs.f = s.regs.f) (h : FlagInv s) : FlagInv t := by unfold FlagInv at h ⊢; rwa [e]

/-- The low bits of F stay or are cleared (10_state.md R22). -/
theorem FlagsAgree.flagInv {e : FlagEffects} {s t : State} (h : FlagsAgree e s t) (hs : FlagInv s) : FlagInv t :=
  h.low.elim (fun same => same.trans hs) id

/-! ### The CPU's part of a tick -/

/-- From `s` to `t` the invariants hold on, but for that of the control state. -/
structure InvKept (s t : State) : Prop where
  flags : FlagInv s → FlagInv t
  memory : MemInv s → MemInv t
  timer : TimerInv s → TimerInv t
  ppu : PpuInv s → PpuInv t
  dma : DmaInv s → DmaInv t

/-- An update of the registers but F, of the control state, of IF, of the outputs and of the number of draws. -/
theorem InvKept.of_eq {s t : State} (hf : t.regs.f = s.regs.f) (hbus : t.bus = s.bus) (htimer : t.timer = s.timer) (hlcd : t.lcd = s.lcd)
    (hppu : t.ppu = s.ppu) (hdma : t.dma = s.dma) : InvKept s t where
  flags := .congr hf
  memory h := by unfold MemInv at h ⊢; rwa [hbus]
  timer h := by unfold TimerInv at h ⊢; rwa [htimer]
  ppu h := by rw [ppuInv_iff] at h ⊢; rwa [hlcd, hppu]
  dma h := by unfold DmaInv at h ⊢; rwa [hdma]

theorem InvKept.refl (s : State) : InvKept s s := .of_eq rfl rfl rfl rfl rfl rfl

theorem InvKept.trans {s t u : State} (h : InvKept s t) (g : InvKept t u) : InvKept s u :=
  ⟨g.flags ∘ h.flags, g.memory ∘ h.memory, g.timer ∘ h.timer, g.ppu ∘ h.ppu, g.dma ∘ h.dma⟩

/-- What is made of stores and of updates of the registers and the control state keeps the invariants. -/
theorem Frame.invKept {f : Footprint} {s t : State} (h : Frame f s t) : InvKept s t :=
  ⟨h.flags.flagInv, h.stores.memory, h.stores.timer, h.stores.pixels, h.stores.transfer⟩

theorem beginCycle_invKept (s : State) : InvKept s (beginCycle s) := by
  obtain ⟨_, _, e, _⟩ := beginCycle_eq s
  rw [e]
  exact .of_eq rfl rfl rfl rfl rfl rfl

theorem State.woken_invKept (s : State) : InvKept s s.woken := by
  rcases s.woken_cases with e | ⟨_, _, e⟩ <;> rw [e]
  · exact .refl s
  · exact .of_eq rfl rfl rfl rfl rfl rfl

theorem fetchOpcode_invKept (s : State) : InvKept s (fetchOpcode s).2 := by
  have fetched : InvKept s (if s.cpu.haltBug then { s.afterLoad s.regs.pc with cpu.haltBug := false } else s.afterFetch) := by
    split
    · exact (s.afterLoad_frame _).invKept.trans (.of_eq rfl rfl rfl rfl rfl rfl)
    · exact s.afterFetch_frame.invKept
  unfold fetchOpcode
  dsimp only
  split
  · exact fetched.trans (State.afterFetch_frame _).invKept
  · exact fetched

theorem selectOpcode_invKept (s : State) : InvKept s (selectOpcode s).2 := by
  rcases selectOpcode_cases s with e | e | ⟨_, e⟩ <;> rw [e]
  · rw [interruptEntry_eq]
    have cleared : InvKept s s.entryCleared := .of_eq rfl rfl rfl rfl rfl rfl
    exact cleared.trans (State.push16_frame _ _).invKept
  · exact s.woken_invKept
  · exact s.woken_invKept.trans (fetchOpcode_invKept _)

theorem fetchOperands_invKept (op : OpcodeId) (s : State) : InvKept s (fetchOperands op s).2 := by
  unfold fetchOperands
  split
  · split
    · exact .refl s
    · exact s.afterFetch_frame.invKept
    · exact s.afterFetch_frame.invKept.trans (State.afterFetch_frame _).invKept
  all_goals exact .refl s

theorem fetchInstr_invKept (s : State) : InvKept s (fetchInstr s).2 := by
  have published (op : OpcodeId) (u : State) : InvKept u (publishTrace op u) := .of_eq rfl rfl rfl rfl rfl rfl
  exact (beginCycle_invKept s).trans ((selectOpcode_invKept _).trans ((published _ _).trans (fetchOperands_invKept _ _)))

theorem exec_invKept {i : Instr} {s t : State} (h : exec i s = .next t) : InvKept s t := by
  have k : InvKept s (serviced i s) := by rw [serviced_eq]; exact .of_eq rfl rfl rfl rfl rfl rfl
  exact k.trans (exec_frame h).invKept

theorem cpuStep_invKept {s t : State} (h : cpuStep s = .next t) : InvKept s t := by
  unfold cpuStep at h
  split at h
  · cases h
    exact .of_eq rfl rfl rfl rfl rfl rfl
  · exact (fetchInstr_invKept s).trans (exec_invKept h)

theorem Inv.cpuStep {s t : State} (h : Inv s) (ht : cpuStep s = .next t) : Inv t := by
  have k := cpuStep_invKept ht
  exact ⟨k.flags h.flags, cpuStep_cpuInv h.cpu ht, k.memory h.memory, k.timer h.timer, k.ppu h.ppu, k.dma h.dma⟩

/-! ### The devices' part of a tick (20_memory.md R66) -/

theorem ppuStep_sameButPixels (s : State) : SameButPixels s (ppuStep s) := by
  cases hon : s.ppu.on with
  | false => rw [ppuStep_off s hon]; exact .refl s
  | true => exact (ppuStep_frame s hon).1

theorem dmaTick_regs_cpu (s : State) : (dmaTick s).regs = s.regs ∧ (dmaTick s).cpu = s.cpu := by
  have poked (a : Word) (v : Byte) : (s.poke a v).regs = s.regs ∧ (s.poke a v).cpu = s.cpu := by
    obtain ⟨hregs, hcpu, _⟩ := s.poke_frame a v
    exact ⟨hregs, hcpu⟩
  unfold dmaTick
  split
  · split
    · exact poked _ _
    · exact ⟨rfl, rfl⟩
  · exact ⟨rfl, rfl⟩

/-- No device changes the CPU. -/
theorem devices_regs_cpu (s : State) : (devices s).regs = s.regs ∧ (devices s).cpu = s.cpu := by
  obtain ⟨_, env, _⟩ := envStep_eq (dmaTick (ppuStep (timerTick s)))
  obtain ⟨dmaRegs, dmaCpu⟩ := dmaTick_regs_cpu (ppuStep (timerTick s))
  have pixels := ppuStep_sameButPixels (timerTick s)
  unfold devices
  dsimp only
  rw [env]
  dsimp only
  rw [dmaRegs, dmaCpu, pixels.regs, pixels.cpu, timerTick_frame]
  exact ⟨rfl, rfl⟩

theorem Inv.timerTick {s : State} (h : Inv s) : Inv (timerTick s) := by
  have ht := h.timer.timerTick
  rw [timerTick_frame] at ht ⊢
  exact ⟨h.flags, h.cpu, h.memory, ht, h.ppu, h.dma⟩

theorem Inv.ppuStep {s : State} (h : Inv s) : Inv (ppuStep s) := by
  have same := ppuStep_sameButPixels s
  refine ⟨.congr (by rw [same.regs]) h.flags, .congr same.cpu h.cpu, ?_, ?_, h.ppu.ppuStep, ?_⟩
  · unfold MemInv; rw [same.bus]; exact h.memory
  · unfold TimerInv; rw [same.timer]; exact h.timer
  · unfold DmaInv; rw [same.dma]; exact h.dma

theorem Inv.dmaTick {s : State} (h : Inv s) : Inv (dmaTick s) := by
  have hm := h.memory.dmaTick h.dma
  have hd := h.dma.dmaTick
  rcases dmaTick_cases s h.dma with ⟨_, e⟩ | ⟨_, _, e⟩ | ⟨_, _, e⟩ <;> rw [e] at hm hd ⊢ <;>
    exact ⟨h.flags, h.cpu, hm, h.timer, h.ppu, hd⟩

theorem Inv.envStep {s : State} (h : Inv s) : Inv (envStep s) := by
  obtain ⟨_, e, _⟩ := envStep_eq s
  rw [e]
  exact ⟨h.flags, h.cpu, h.memory, h.timer, h.ppu, h.dma⟩

/-- The tick count stands in no invariant. -/
theorem Inv.devices {s : State} (h : Inv s) : Inv (devices s) := by
  obtain ⟨flags, cpu, memory, timer, ppu, dma⟩ := h.timerTick.ppuStep.dmaTick.envStep
  exact ⟨flags, cpu, memory, timer, ppu, dma⟩

/-! ### The step -/

/-- Settles O59: a step is the CPU's and then the devices', and each keeps the invariant. -/
theorem stepKeepsInvariant : Obligations.StepKeepsInvariant := by
  intro s t h hst
  obtain ⟨u, hu, rfl⟩ := step_cases hst
  exact (h.cpuStep hu).devices

/-- No tick sets one of the low four bits of F (10_state.md R22). -/
theorem FlagInv.step {s t : State} (h : FlagInv s) (hst : step s = .next t) : FlagInv t := by
  obtain ⟨u, hu, rfl⟩ := step_cases hst
  exact .congr (by rw [(devices_regs_cpu u).1]) ((cpuStep_invKept hu).flags h)

end Sys2Proof.Machine
end

section
/-! SUPPORT. The register file, the pairs and the flags (10_state.md R19 to R25). -/

namespace Sys2Proof.Machine

/-! ### Pairs and their halves (R20) -/

theorem State.pair_setPair (s : State) (p : Pair) (w : Word) : (s.setPair p w).pair p = w := by
  cases p with
  | bc | de | hl => exact joinBytes_parts w
  | sp => rfl

/-- A word with the low four bits of its low byte cleared (R22). -/
theorem joinBytes_maskF (w : Word) : joinBytes (hiByte w) (loByte w &&& 0xF0) = w &&& 0xFFF0 := by
  calc joinBytes (hiByte w) (loByte w &&& 0xF0)
      = joinBytes (hiByte w &&& BitVec.allOnes 8) (loByte w &&& 0xF0) := by rw [BitVec.and_allOnes]
    _ = joinBytes (hiByte w) (loByte w) &&& joinBytes (BitVec.allOnes 8) 0xF0 := BitVec.and_append.symm
    _ = w &&& 0xFFF0 := by rw [joinBytes_parts]; rfl

theorem State.stackPair_setStackPair (s : State) (q : StackPair) (w : Word) :
    (s.setStackPair q w).stackPair q = if q = .af then w &&& 0xFFF0 else w := by
  cases q with
  | bc | de | hl => exact joinBytes_parts w
  | af => exact joinBytes_maskF w

/-! ### Flags (R25) -/

/-- Bit k of a byte as a number. -/
theorem getLsbD_eq_decide (f : Byte) (k : Nat) : f.getLsbD k = decide (f.toNat / 2 ^ k % 2 = 1) :=
  Nat.testBit_eq_decide_div_mod_eq

/-- The four flags stand in bits 7 to 4. -/
theorem packFlags_eq (z n h c : Bool) :
    packFlags z n h c = BitVec.ofNat 8 (128 * z.toNat + 64 * n.toNat + 32 * h.toNat + 16 * c.toNat) := by
  cases z <;> cases n <;> cases h <;> cases c <;> decide

/-- Settles O35: registers and pairs read back, flags are bits of F, and a step keeps the low bits of F at zero. -/
theorem registerRoundTrip : Obligations.RegisterRoundTrip := by
  refine ⟨fun s r p q v w => ?_, fun s v w => ?_, fun s z n h c => ?_, fun s t => FlagInv.step⟩
  · exact ⟨s.reg8_setReg8 r v, fun x hx => s.reg8_setReg8_ne r x v hx, s.setReg8_regs_f r v, s.pair_setPair p w,
      s.stackPair_setStackPair q w, rfl, toNat_joinBytes _ _, toNat_joinBytes _ _, toNat_joinBytes _ _, toNat_joinBytes _ _,
      rfl, rfl, rfl, rfl⟩
  · exact ⟨⟨rfl, rfl, rfl⟩, ⟨rfl, rfl, rfl⟩, ⟨rfl, rfl, rfl⟩, ⟨rfl, rfl, rfl⟩, ⟨rfl, rfl, rfl⟩, ⟨rfl, rfl, rfl⟩, ⟨rfl, rfl, rfl⟩,
      ⟨rfl, rfl, rfl, rfl, rfl⟩, ⟨rfl, rfl, rfl, rfl, rfl⟩, ⟨rfl, rfl, rfl, rfl, rfl⟩, rfl, rfl, rfl, rfl⟩
  · refine ⟨getLsbD_eq_decide _ 7, getLsbD_eq_decide _ 6, getLsbD_eq_decide _ 5, getLsbD_eq_decide _ 4, ?_, ?_⟩
    · rw [State.setFlags, packFlags_eq]
    · exact ⟨⟨rfl, rfl⟩, ⟨rfl, rfl⟩, ⟨rfl, rfl⟩, rfl, rfl⟩

end Sys2Proof.Machine
end

section
/-! SUPPORT. The memory-mapped registers (10_state.md R27 to R42): what a load returns and which bits a store writes. -/

namespace Sys2Proof.Machine

/-- A load and a store at the address of a register of the I/O region. -/
theorem State.register_access (s : State) (v : Byte) (r : IoReg) {a : Word}
    (h : 0xFF00 ≤ a.toNat ∧ a.toNat ≤ 0xFF7F ∧ ioReg (a.toNat - 0xFF00) = r := by decide) :
    s.loadVal a = s.ioRead r ∧ s.store a v = s.ioWrite v r := by
  obtain ⟨h1, h2, hr⟩ := h
  exact ⟨s.loadVal_reg (n := a.toNat - 0xFF00) (by omega) (by omega) hr, by rw [State.store_io v h1 h2, hr]⟩

theorem State.loadVal_ie (s : State) {a : Word} (h : a.toNat = 0xFFFF) : s.loadVal a = s.irq.ie := by
  unfold State.loadVal; rw [busDecode_ie _ h]; rfl

/-! ### Timer registers (R28 to R31) -/

theorem Timer.writeDiv_counter (t : Timer) : t.writeDiv.counter = 0 := (Timer.edgeCheck_frame _).1

theorem Timer.writeTma_tma (t : Timer) (v : Byte) : (t.writeTma v).tma = v := by unfold Timer.writeTma; split <;> rfl

theorem Timer.writeTac_tac (t : Timer) (v : Byte) : (t.writeTac v).tac = v.setWidth 3 := (Timer.edgeCheck_frame _).2.1

/-- A store to a timer register changes nothing but the timer. -/
theorem State.store_timer_register (s : State) (v : Byte) {a : Word} (h : a ∈ [(0xFF04 : Word), 0xFF05, 0xFF06, 0xFF07]) :
    s.store a v = { s with timer := (s.store a v).timer } := by
  simp only [List.mem_cons, List.not_mem_nil, or_false] at h
  rcases h with rfl | rfl | rfl | rfl
  · rw [(s.register_access v .div).2]; rfl
  · rw [(s.register_access v .tima).2]; rfl
  · rw [(s.register_access v .tma).2]; rfl
  · rw [(s.register_access v .tac).2]; rfl

/-! ### The read-as-one bits (R27) -/

theorem toNat_tacRead : ∀ x : BitVec 3, (0xF8#8 ||| x.setWidth 8).toNat = 0xF8 + x.toNat := by decide

theorem toNat_ifRead : ∀ x : BitVec 5, (0xE0#8 ||| x.setWidth 8).toNat = 0xE0 + x.toNat := by decide

theorem Ppu.reportedMode_lt_four (p : Ppu) : p.reportedMode < 4 := by
  have number : p.mode.number < 4 := by cases p.mode <;> decide
  unfold Ppu.reportedMode
  split
  · omega
  · split <;> omega

/-- STAT reads bit 7 one, then its enables, the coincidence and the mode in bits of their own (R35). -/
theorem toNat_statRead (p : Ppu) (r : Lcd) :
    (statRead p r).toNat = 0x80 + 8 * r.statEn.toNat + 4 * (p.reportedLy == r.lyc).toNat + p.reportedMode := by
  have fields : ∀ (e : BitVec 4) (c : Bool) (m : Fin 4),
      (0x80#8 ||| (e.setWidth 8 <<< 3) ||| (if c then 4#8 else 0#8) ||| BitVec.ofNat 8 m.val).toNat
        = 0x80 + 8 * e.toNat + 4 * c.toNat + m.val := by decide
  exact fields r.statEn (coincidence p r) ⟨p.reportedMode, p.reportedMode_lt_four⟩

/-- Settles O36: each register by its load and its store. -/
theorem registerAddressesAndMasks : Obligations.RegisterAddressesAndMasks := by
  intro s v
  obtain ⟨divLoad, divStore⟩ := s.register_access v .div (a := 0xFF04)
  obtain ⟨tmaLoad, tmaStore⟩ := s.register_access v .tma (a := 0xFF06)
  obtain ⟨tacLoad, tacStore⟩ := s.register_access v .tac (a := 0xFF07)
  obtain ⟨ifLoad, ifStore⟩ := s.register_access v .ifl (a := 0xFF0F)
  obtain ⟨lcdcLoad, lcdcStore⟩ := s.register_access v .lcdc (a := 0xFF40)
  obtain ⟨statLoad, statStore⟩ := s.register_access v .stat (a := 0xFF41)
  obtain ⟨dmaLoad, dmaStore⟩ := s.register_access v .dma (a := 0xFF46)
  refine ⟨⟨?_, ?_⟩, (s.register_access v .tima).1, ⟨tmaLoad, ?_⟩, ⟨?_, ?_⟩, fun a ha => s.store_timer_register v ha, ⟨?_, ?_⟩,
    ⟨s.loadVal_ie rfl, State.store_ie v rfl⟩, ⟨lcdcLoad, ?_⟩, ⟨?_, statStore⟩, s.register_access v .scy, s.register_access v .scx,
    s.register_access v .ly, s.register_access v .lyc, ⟨dmaLoad, ?_, ?_⟩, s.register_access v .bgp, s.register_access v .obp0,
    s.register_access v .obp1, s.register_access v .wy, s.register_access v .wx, s.register_access v .boot⟩
  · rw [divLoad]; exact toNat_hiByte _
  · rw [divStore]; exact Timer.writeDiv_counter _
  · rw [tmaStore]; exact Timer.writeTma_tma _ v
  · rw [tacLoad]; exact toNat_tacRead _
  · rw [tacStore]
    exact (congrArg BitVec.toNat (Timer.writeTac_tac _ v)).trans (BitVec.toNat_setWidth 3 v)
  · rw [ifLoad]; exact toNat_ifRead _
  · rw [ifStore, ← BitVec.setWidth_eq_extractLsb' (show 5 ≤ 8 by decide)]; rfl
  · rw [lcdcStore]; rfl
  · rw [statLoad]; exact toNat_statRead _ _
  · rw [dmaStore]; rfl
  · rw [dmaStore]; rfl

end Sys2Proof.Machine
end

section
/-! SUPPORT. The memory of the block (20_memory.md): what a CPU load returns by region, as `State.store_cases` says of a store, with the statements
about RAM, the regions, the access lock, the cartridge windows and the tick. -/

namespace Sys2Proof.Machine

/-! ### Loads by region (R53, R57, R58, R60) -/

section
variable {s : State} {a : Word}

theorem State.loadVal_boot (hov : s.bus.bootOverlay = true) (h : a.toNat ≤ 0xFF) :
    s.loadVal a = Memory.read (Config.unlisted .bootRom) s.bus.bootRom a.toNat := by
  unfold State.loadVal; rw [hov, busDecode_boot h]; rfl

theorem State.loadVal_romA (h : s.bus.bootOverlay = false ∨ 0x100 ≤ a.toNat) (h' : a.toNat ≤ 0x3FFF) :
    s.loadVal a = s.romByte s.cart.answers.romBankA a.toNat := by
  unfold State.loadVal; rw [busDecode_romA h h']; rfl

theorem State.loadVal_romB (h : 0x4000 ≤ a.toNat) (h' : a.toNat ≤ 0x7FFF) :
    s.loadVal a = s.romByte s.cart.answers.romBankB (a.toNat - 0x4000) := by
  unfold State.loadVal; rw [busDecode_romB _ h h']; rfl

theorem State.loadVal_vram (h : 0x8000 ≤ a.toNat) (h' : a.toNat ≤ 0x9FFF) :
    s.loadVal a = if s.vramLocked then 0xFF else s.ramByte a.toNat := by
  unfold State.loadVal; rw [busDecode_vram _ h h']; simp only [State.defaultRead, Nat.add_sub_of_le h]

theorem State.loadVal_eram (h : 0xA000 ≤ a.toNat) (h' : a.toNat ≤ 0xBFFF) :
    s.loadVal a = if s.cartRamOn then s.cartRamByte (a.toNat - 0xA000) else 0xFF := by
  unfold State.loadVal; rw [busDecode_eram _ h h']; rfl

theorem State.loadVal_wram (h : 0xC000 ≤ a.toNat) (h' : a.toNat ≤ 0xDFFF) : s.loadVal a = s.ramByte a.toNat := by
  unfold State.loadVal
  by_cases low : a.toNat ≤ 0xCFFF
  · rw [busDecode_wram0 _ h low]; simp only [State.defaultRead, Nat.add_sub_of_le h]
  · have high : 0xD000 ≤ a.toNat := Nat.gt_of_not_le low
    rw [busDecode_wram1 _ high h']; simp only [State.defaultRead, Nat.add_sub_of_le high]

theorem State.loadVal_echo (h : 0xE000 ≤ a.toNat) (h' : a.toNat ≤ 0xFDFF) : s.loadVal a = s.ramByte (a.toNat - 0x2000) := by
  unfold State.loadVal
  by_cases low : a.toNat ≤ 0xEFFF
  · rw [busDecode_echo0 _ h low]; exact congrArg s.ramByte (by omega)
  · rw [busDecode_echo1 _ (by omega) h']; exact congrArg s.ramByte (by omega)

theorem State.loadVal_oam (h : 0xFE00 ≤ a.toNat) (h' : a.toNat ≤ 0xFE9F) :
    s.loadVal a = if s.oamLocked then 0xFF else s.ramByte a.toNat := by
  unfold State.loadVal; rw [busDecode_oam _ h h']; simp only [State.defaultRead, Nat.add_sub_of_le h]

theorem State.loadVal_unmapped (h : 0xFEA0 ≤ a.toNat) (h' : a.toNat ≤ 0xFEFF) : s.loadVal a = 0xFF := by
  unfold State.loadVal; rw [busDecode_unmapped _ h h']; rfl

theorem State.loadVal_hram (h : 0xFF80 ≤ a.toNat) (h' : a.toNat ≤ 0xFFFE) : s.loadVal a = s.ramByte a.toNat := by
  unfold State.loadVal; rw [busDecode_hram _ h h']; simp only [State.defaultRead, Nat.add_sub_of_le h]

/-- A load that the environment does not answer has no side effect (R64). -/
theorem State.afterLoad_of_not_env (h : isEnvAddr a = false) : s.afterLoad a = s := by
  unfold State.afterLoad; rw [h]; rfl

end

/-- The environment answers in the I/O region only. -/
theorem isEnvAddr_outside_io {a : Word} (h : a.toNat < 0xFF00 ∨ 0xFF7F < a.toNat) : isEnvAddr a = false := by
  unfold isEnvAddr
  rcases h with h | h
  · rw [decide_eq_false (Nat.not_le.2 h)]; rfl
  · rw [decide_eq_false (Nat.not_le.2 h), Bool.and_false]; rfl

/-! ### RAM reads back (R53, R54) -/

/-- A write of RAM changes no region's byte at an address that does not share the key. -/
theorem State.defaultRead_setRamByte {s : State} (w : Memory.wf (Config.unlisted .ram) s.bus.ram = true) {k : Nat} (v : Byte) {b : Word}
    (h : ramKey b ≠ some k) {ov : Bool} {r : Region} {o : Nat} (hd : busDecode b ov = (r, o)) :
    (s.setRamByte k v).defaultRead r o = s.defaultRead r o := by
  have other {j : Nat} (hj : ramKey b = some j) : (s.setRamByte k v).ramByte j = s.ramByte j := by
    rw [State.ramByte_setRamByte w, if_neg fun c => h (hj.trans (congrArg some c))]
  obtain ⟨vram, wram0, wram1, oam, hram⟩ := ramKey_of_busDecode hd
  cases r with
  | vram => exact other (vram rfl)
  | wram0 => exact other (wram0 rfl)
  | wram1 => exact other (wram1 rfl)
  | oam => exact other (oam rfl)
  | hram => exact other (hram rfl)
  | boot | romA | romB | eram | unmapped | io | ie => rfl

/-- A write of RAM changes no load from an address that does not share the key. -/
theorem State.loadVal_setRamByte {s : State} (w : Memory.wf (Config.unlisted .ram) s.bus.ram = true) {k : Nat} (v : Byte) {b : Word}
    (h : ramKey b ≠ some k) : (s.setRamByte k v).loadVal b = s.loadVal b := by
  have overlay : (s.setRamByte k v).bus.bootOverlay = s.bus.bootOverlay := rfl
  unfold State.loadVal
  rw [overlay]
  generalize hd : busDecode b s.bus.bootOverlay = d
  obtain ⟨r, o⟩ := d
  have same := State.defaultRead_setRamByte w v h hd
  cases r with
  | vram => exact congrArg (fun x => if s.vramLocked then 0xFF else x) same
  | oam => exact congrArg (fun x => if s.oamLocked then 0xFF else x) same
  | io => generalize ioReg o = x; cases x <;> rfl
  | _ => exact same

/-- Settles O37: an unlocked store writes the byte of its key, which is the byte that the address loads. -/
theorem ramReadsBackWhatWasStored : Obligations.RamReadsBackWhatWasStored := by
  intro s a b k v mem hk hv ho
  have w := mem.1
  rw [State.store_unlocked v hk hv ho]
  refine ⟨?_, State.loadVal_setRamByte w v⟩
  rw [State.loadVal_unlocked (s := s.setRamByte k v) hk hv ho, State.ramByte_setRamByte w, if_pos rfl]

/-! ### The regions and the echo (R49, R50) -/

/-- The size of a region (R49). -/
def Region.size : Region → Nat
  | .boot => 256
  | .romA => 16384
  | .romB => 16384
  | .vram => 8192
  | .eram => 8192
  | .wram0 => 4096
  | .wram1 => 4096
  | .oam => 160
  | .unmapped => 96
  | .io => 128
  | .hram => 127
  | .ie => 1

/-- An address decodes to an offset inside its region, test by test of the decoding. -/
theorem busDecode_offset_lt_size (a : Word) (ov : Bool) : (busDecode a ov).2 < (busDecode a ov).1.size := by
  unfold busDecode
  dsimp only
  iterate 13
    refine iteInduction (motive := fun d : Region × Nat => d.2 < d.1.size) (fun h => ?_) fun h => ?_
    · simp only [Region.size]; omega
  exact Nat.one_pos

/-- A byte of RAM lies behind the address that is its key and behind the echo of that address. -/
theorem toNat_of_ramKey {a : Word} {k : Nat} (h : ramKey a = some k) : a.toNat = k ∨ a.toNat = k + 0x2000 := by
  rw [ramKey_eq] at h
  split at h
  · exact .inl (Option.some.inj h)
  · split at h
    next hr => have e := Option.some.inj h; exact .inr (by omega)
    next => cases h

/-- Addresses that share a byte of RAM are the same or echoes of each other. -/
theorem eq_or_echo_of_ramKey_eq {a b : Word} (ha : (ramKey a).isSome = true) (h : ramKey a = ramKey b) :
    a = b ∨ a = b + 0x2000 ∨ b = a + 0x2000 := by
  obtain ⟨k, hk⟩ := Option.isSome_iff_exists.1 ha
  rcases toNat_of_ramKey hk with ea | ea <;> rcases toNat_of_ramKey (h ▸ hk) with eb | eb
  · exact .inl (by bv_omega)
  · exact .inr (.inr (by bv_omega))
  · exact .inr (.inl (by bv_omega))
  · exact .inl (by bv_omega)

/-- Settles O38: the decoding by ranges, and the loads and stores of work RAM, its echo and high RAM. -/
theorem regionsAndEcho : Obligations.RegionsAndEcho := by
  refine ⟨fun a ov => ?_, fun s a v h => ?_, fun s a v h h' => ?_, fun a b => eq_or_echo_of_ramKey_eq⟩
  · exact ⟨fun hov h => by rw [hov]; exact busDecode_boot h, busDecode_romA, busDecode_romB ov, busDecode_vram ov, busDecode_eram ov,
      busDecode_wram0 ov, busDecode_wram1 ov, busDecode_echo0 ov, busDecode_echo1 ov, busDecode_oam ov, busDecode_unmapped ov,
      busDecode_io ov, busDecode_hram ov, busDecode_ie ov, busDecode_offset_lt_size a ov⟩
  · have noEnv : s.afterLoad a = s := State.afterLoad_of_not_env (isEnvAddr_outside_io (by omega))
    rcases h with ⟨h, h'⟩ | ⟨h, h'⟩
    · exact ⟨State.loadVal_wram h h', State.store_wram v h h', noEnv⟩
    · exact ⟨State.loadVal_hram h h', State.store_hram v h h', noEnv⟩
  · have echoed : (a - 0x2000).toNat = a.toNat - 0x2000 := by bv_omega
    refine ⟨?_, ?_, State.afterLoad_of_not_env (isEnvAddr_outside_io (by omega))⟩
    · rw [State.loadVal_echo h h', State.loadVal_wram (by omega) (by omega), echoed]
    · rw [State.store_echo v h h', State.store_wram v (by omega) (by omega), echoed]

/-! ### The access lock and the absent addresses (R57, R58) -/

theorem State.vramLocked_iff (s : State) :
    s.vramLocked = true ↔ s.params.accessLock = true ∧ s.ppu.on = true ∧ s.ppu.mode = .draw := by
  simp [State.vramLocked, and_assoc]

theorem State.oamLocked_iff (s : State) :
    s.oamLocked = true ↔ s.params.accessLock = true
      ∧ ((s.ppu.on = true ∧ (s.ppu.mode = .oamScan ∨ s.ppu.mode = .draw)) ∨ s.dma.active = true) := by
  simp [State.oamLocked]

/-- The unused addresses of the I/O region (R57). -/
theorem ioReg_unused {o : Nat} (h : o < 128) (ho : o = 0x03 ∨ (0x08 ≤ o ∧ o ≤ 0x0E) ∨ o = 0x15 ∨ o = 0x1F ∨ (0x27 ≤ o ∧ o ≤ 0x2F)
    ∨ (0x4C ≤ o ∧ o ≤ 0x4F) ∨ (0x51 ≤ o ∧ o ≤ 0x7F)) : ioReg o = .unused := by
  revert o; decide +kernel

/-- An unused address of the I/O region reads 0xFF and ignores stores. -/
theorem State.unused_access (s : State) (v : Byte) {a : Word} (h : 0xFF00 ≤ a.toNat) (h' : a.toNat ≤ 0xFF7F)
    (hr : ioReg (a.toNat - 0xFF00) = .unused) : s.loadVal a = 0xFF ∧ s.store a v = s ∧ s.afterLoad a = s := by
  obtain ⟨load, store⟩ := s.register_access v .unused ⟨h, h', hr⟩
  have noEnv : isEnvAddr a = false := by unfold isEnvAddr; rw [hr]; exact Bool.and_false _
  exact ⟨load, store, State.afterLoad_of_not_env noEnv⟩

theorem State.unmapped_access (s : State) (v : Byte) {a : Word} (h : 0xFEA0 ≤ a.toNat) (h' : a.toNat ≤ 0xFEFF) :
    s.loadVal a = 0xFF ∧ s.store a v = s ∧ s.afterLoad a = s :=
  ⟨State.loadVal_unmapped h h', State.store_unmapped v h h', State.afterLoad_of_not_env (isEnvAddr_outside_io (by omega))⟩

/-- Settles O39: the loads and stores of each region by its lock. -/
theorem lockedAndAbsentAddressesReadOnes : Obligations.LockedAndAbsentAddressesReadOnes := by
  intro s a v
  refine ⟨fun h h' => ?_, fun h h' => ?_, fun h => ?_, fun h h' off => ?_, State.loadVal_boot⟩
  · rw [← s.vramLocked_iff, State.loadVal_vram h h', State.store_vram v h h']
    exact ⟨fun locked => ⟨if_pos locked, if_pos locked⟩, fun free => ⟨if_neg free, if_neg free⟩⟩
  · rw [← s.oamLocked_iff, State.loadVal_oam h h', State.store_oam v h h']
    exact ⟨fun locked => ⟨if_pos locked, if_pos locked⟩, fun free => ⟨if_neg free, if_neg free⟩⟩
  · rcases h with ⟨h, h'⟩ | unused
    · exact s.unmapped_access v h h'
    · exact s.unused_access v (by omega) (by omega) (ioReg_unused (by omega) (by omega))
  · rw [← Bool.and_eq_true] at off
    rw [State.loadVal_eram h h', State.store_eram v h h']
    exact ⟨if_neg off, if_neg off⟩

/-! ### The cartridge windows (R53, R60) -/

/-- With the ROM-only controller the two windows are the image's first 32768 bytes (D38). -/
theorem State.loadVal_romOnly {s : State} {a : Word} (hc : s.cart = .romOnly) (hlen : 32768 ≤ s.bus.cartRomLen)
    (hov : s.bus.bootOverlay = false ∨ 0x100 ≤ a.toNat) (h : a.toNat ≤ 0x7FFF) :
    s.loadVal a = Memory.read (Config.unlisted .cartRom) s.bus.cartRom a.toNat := by
  have image {bank o : Nat} (e : bank * 16384 + o = a.toNat) :
      s.romByte bank o = Memory.read (Config.unlisted .cartRom) s.bus.cartRom a.toNat := by
    unfold State.romByte; rw [e, Nat.mod_eq_of_lt (by omega)]
  by_cases low : a.toNat ≤ 0x3FFF
  · rw [State.loadVal_romA hov low, hc]; exact image (bank := 0) (by omega)
  · rw [State.loadVal_romB (by omega) h, hc]; exact image (bank := 1) (by omega)

/-- Settles O60: the loads of the ROM windows by bank, and cartridge RAM that answers as memory keyed by bank and offset. -/
theorem cartridgeWindows : Obligations.CartridgeWindows := by
  intro s a v
  refine ⟨State.loadVal_romA, State.loadVal_romB, State.loadVal_romOnly, fun b hb => ?_, fun present enabled h h' => ?_⟩
  · rw [hb]; exact ⟨rfl, rfl, rfl⟩
  · have on : s.cartRamOn = true := by unfold State.cartRamOn; rw [present, enabled]; rfl
    have store : s.store a v = s.setCartRamByte (a.toNat - 0xA000) v := by rw [State.store_eram v h h', if_pos on]
    refine ⟨by rw [State.loadVal_eram h h', if_pos on]; rfl, store, fun ⟨_, _, _, w, _⟩ => ?_⟩
    have load := State.loadVal_eram (s := s.setCartRamByte (a.toNat - 0xA000) v) h h'
    rw [store, load.trans (if_pos on)]
    exact ⟨Memory.read_write_same w _ v, fun j hj => Memory.read_write_ne w v hj⟩

/-! ### The tick (R66, R14, 70_reset_and_hazards.md R241) -/

/-- A machine that has recorded no stop runs a tick. -/
theorem step_of_running {s : State} (h : s.stopped = none) : step s = tick s := by unfold step; rw [h]

/-- A machine that has recorded a stop answers it. -/
theorem step_of_stopped {s : State} {r : Out} (h : s.stopped = some r) : step s = r := by unfold step; rw [h]

/-- Settles O4: the answer of a tick by that of the CPU step, the CPU step by its wait, and a stopped machine by what it has recorded. -/
theorem tickRunsFiveStepsInOrder : Obligations.TickRunsFiveStepsInOrder := by
  intro s
  refine ⟨fun t hs ht => ?_, fun f hs hf => ?_, fun r hs hr => ?_, fun hw => if_pos hw, fun hw => if_neg (by omega), fun f hf => ?_, fun r hf hr => ?_⟩
  · rw [step_of_running hs, tick, ht]; rfl
  · rw [step_of_running hs, tick, hf]
  · rw [step_of_running hs, tick, hr]
  · exact step_of_stopped (by rw [State.stopped, hf])
  · exact step_of_stopped (by rw [State.stopped, hf, hr])

end Sys2Proof.Machine
end

section
/-! SUPPORT. Decoding and encoding (30_encoding.md): the words and lengths of the maps, that the decoder and the encoder undo each other, the prefix, and that a cycle
runs what the bytes at PC decode to. -/

namespace Sys2Proof.Machine

-- One thread elaborates this part: a thread's stack and heap for each proof would pass the memory that a check of the whole text may take.
set_option Elab.async false

/-! ### Words of the maps (R74, R82, R83) -/

/-- Settles O3: each word by evaluation, and the lengths over the two lists of R74 and over all opcodes. -/
theorem opcodeMapWords : Obligations.OpcodeMapWords :=
  ⟨rfl, rfl, rfl, rfl, rfl, rfl, rfl, rfl, rfl, rfl, rfl, rfl, rfl, rfl, rfl, rfl, by decide, by decide, by decide +kernel⟩

/-! ### Decoding what the encoder writes -/

/-- A row with a 16-bit operand reads its word back, the low byte first (R81). -/
theorem decode_word_row {b : Byte} {row : Word → Instr} (hl : instrLength b = 3) (hd : ∀ lo hi, decode3 b lo hi = row (joinBytes hi lo))
    (w : Word) (rest : List Byte) : decode (b :: loByte w :: hiByte w :: rest) = .ok (row w, rest) := by
  rw [decode_of_length_three hl, hd, joinBytes_parts]

theorem fieldX_opByte {x y z : Nat} (hx : x < 4) (hy : y < 8) (hz : z < 8) : fieldX (opByte x y z) = x := by
  simp only [fieldX, opByte, BitVec.toNat_ofNat]; omega
theorem fieldY_opByte {x y z : Nat} (hy : y < 8) (hz : z < 8) : fieldY (opByte x y z) = y := by
  simp only [fieldY, opByte, BitVec.toNat_ofNat]; omega
theorem fieldZ_opByte {x y z : Nat} (hz : z < 8) : fieldZ (opByte x y z) = z := by
  simp only [fieldZ, opByte, BitVec.toNat_ofNat]; omega

theorem bitField_opByte {x z : Nat} (k : Fin 8) (hz : z < 8) : bitField (opByte x k.val z) = k :=
  Fin.ext (fieldY_opByte k.isLt hz)

theorem Reg8.field_lt (r : Reg8) : r.field < 8 := by cases r <;> decide

theorem Reg8.ofField_field (r : Reg8) : Reg8.ofField r.field = some r := by cases r <;> rfl

/-- After the prefix, the second byte selects the instruction (R75). -/
theorem decode_prefixed {b : Byte} {i : Instr} (h : decodeCb b = i) (rest : List Byte) : decode (0xCB :: b :: rest) = .ok (i, rest) := by
  rw [← h]; rfl

/-- The bytes of every whole instruction decode to it. A row of fixed bytes, or of one byte and an 8-bit operand, evaluates; a 16-bit operand is joined again
from its halves; a CB row's operands are read from the fields of its second byte. -/
theorem decode_encode {i : Instr} (h : i.wellFormed = true) (rest : List Byte) : decode (encode i ++ rest) = .ok (i, rest) := by
  cases i with
  | ldBcN16 w | ldAtA16Sp w | ldDeN16 w | ldHlN16 w | ldSpN16 w | jpNzA16 w | jpA16 w | callNzA16 w | jpZA16 w | callZA16 w | callA16 w
    | jpNcA16 w | callNcA16 w | jpCA16 w | callCA16 w | ldAtA16A w | ldAAtA16 w => exact decode_word_row rfl (fun _ _ => rfl) w rest
  | rlcR r | rrcR r | rlR r | rrR r | slaR r | sraR r | swapR r | srlR r => cases r <;> rfl
  | bitBR k r | resBR k r | setBR k r =>
      exact decode_prefixed (by simp [decodeCb, fieldX_opByte, fieldZ_opByte, bitField_opByte, Reg8.field_lt, Reg8.ofField_field]) rest
  | bitBAtHl k | resBAtHl k | setBAtHl k =>
      exact decode_prefixed (by simp [decodeCb, fieldX_opByte, fieldZ_opByte, bitField_opByte, Reg8.ofField]) rest
  | prefixCb | halting | interrupt | intCancelled => exact absurd h Bool.false_ne_true
  | _ => rfl

/-- Settles O1. -/
theorem decodeOfEncode : Obligations.DecodeOfEncode := fun _ rest h => decode_encode h rest

/-! ### Encoding what the decoder reads -/

/-- What an answer of the decoder can be: an instruction of one, two or three bytes, or the bare prefix at the end (R74, log 8). -/
theorem decode_cases {bs rest : List Byte} {i : Instr} (h : decode bs = .ok (i, rest)) :
    (∃ b0, instrLength b0 = 1 ∧ bs = b0 :: rest ∧ i = decode3 b0 0 0)
      ∨ (∃ b0 b1, instrLength b0 = 2 ∧ bs = b0 :: b1 :: rest ∧ i = decode3 b0 b1 0)
      ∨ (∃ b0 b1 b2, instrLength b0 = 3 ∧ bs = b0 :: b1 :: b2 :: rest ∧ i = decode3 b0 b1 b2)
      ∨ (bs = [0xCB] ∧ rest = [] ∧ i = .prefixCb) := by
  unfold decode at h
  split at h
  next => cases h
  next b0 tail =>
    split at h
    next hl => cases h; exact .inl ⟨b0, hl, rfl, rfl⟩
    next b1 _ hl => cases h; exact .inr (.inl ⟨b0, b1, hl, rfl, rfl⟩)
    next b1 b2 _ hl => cases h; exact .inr (.inr (.inl ⟨b0, b1, b2, hl, rfl, rfl⟩))
    next =>
      split at h
      next prefixed => cases h; exact .inr (.inr (.inr ⟨by rw [prefixed], rfl, rfl⟩))
      next => cases h
    next => cases h

/-- The opcodes with an 8-bit operand (R74). -/
def byteOperandOpcodes : List Byte :=
  [0x06, 0x0E, 0x10, 0x16, 0x18, 0x1E, 0x20, 0x26, 0x28, 0x2E, 0x30, 0x36, 0x38, 0x3E, 0xC6, 0xCE, 0xD6, 0xDE, 0xE0, 0xE6, 0xE8, 0xEE, 0xF0,
    0xF6, 0xF8, 0xFE]

/-- The opcodes with a 16-bit operand (R74). -/
def wordOperandOpcodes : List Byte :=
  [0x01, 0x08, 0x11, 0x21, 0x31, 0xC2, 0xC3, 0xC4, 0xCA, 0xCC, 0xCD, 0xD2, 0xD4, 0xDA, 0xDC, 0xEA, 0xFA]

theorem instrLength_eq_two_iff (b : Byte) : instrLength b = 2 ↔ b = 0xCB ∨ b ∈ byteOperandOpcodes := by
  revert b; decide +kernel

theorem instrLength_eq_three_iff (b : Byte) : instrLength b = 3 ↔ b ∈ wordOperandOpcodes := by
  revert b; decide +kernel

/-- The bytes are the encoding of the instruction, which is a whole one. -/
def Spells (bytes : List Byte) (i : Instr) : Prop := encode i = bytes ∧ i.wellFormed = true

theorem spells_decodeCb (b : Byte) : Spells [0xCB, b] (decodeCb b) := by
  unfold Spells; revert b; decide +kernel

theorem spells_of_length_one {b0 : Byte} (h : instrLength b0 = 1) : Spells [b0] (decode3 b0 0 0) := by
  unfold Spells; revert b0; decide +kernel

theorem spells_of_length_two {b0 : Byte} (h : instrLength b0 = 2) (n : Byte) : Spells [b0, n] (decode3 b0 n 0) := by
  rcases (instrLength_eq_two_iff b0).1 h with rfl | operand
  · exact spells_decodeCb n
  · fin_cases operand <;> exact ⟨rfl, rfl⟩

theorem spells_of_length_three {b0 : Byte} (h : instrLength b0 = 3) (lo hi : Byte) : Spells [b0, lo, hi] (decode3 b0 lo hi) := by
  have row : Spells [b0, loByte (joinBytes hi lo), hiByte (joinBytes hi lo)] (decode3 b0 lo hi) := by
    have operand := (instrLength_eq_three_iff b0).1 h
    fin_cases operand <;> exact ⟨rfl, rfl⟩
  rwa [loByte_joinBytes, hiByte_joinBytes] at row

/-- Settles O2: by the length of the instruction that the decoder has read. -/
theorem encodeOfDecode : Obligations.EncodeOfDecode := by
  intro bs i rest h
  have whole {bytes : List Byte} (spelled : Spells bytes i) : encode i ++ rest = bytes ++ rest ∧ (i.wellFormed = true ∨ i = .prefixCb) :=
    ⟨congrArg (· ++ rest) spelled.1, .inl spelled.2⟩
  rcases decode_cases h with ⟨b0, hl, rfl, rfl⟩ | ⟨b0, b1, hl, rfl, rfl⟩ | ⟨b0, b1, b2, hl, rfl, rfl⟩ | ⟨rfl, rfl, rfl⟩
  · exact whole (spells_of_length_one hl)
  · exact whole (spells_of_length_two hl b1)
  · exact whole (spells_of_length_three hl b1 b2)
  · exact ⟨rfl, .inr rfl⟩

/-! ### The prefix (R75) -/

/-- Every CB instruction completes. -/
theorem runCb_next (b : Byte) (s : State) : ∃ t, runCb b s = .next t := by
  unfold runCb; split <;> exact ⟨_, rfl⟩

/-- Settles O25: the prefix runs the CB instruction that its second byte decodes to. -/
theorem prefixSelectsCbInstruction : Obligations.PrefixSelectsCbInstruction := by
  intro s
  exact ⟨rfl, runCb_eq s.fetchVal s.afterFetch, runCb_next s.fetchVal s.afterFetch⟩

/-! ### The cycle (R71, R74) -/

/-- A cycle that dispatches nothing and is awake reads the byte at PC. -/
theorem selectOpcode_of_awake {s : State} (hd : s.dispatches = false) (hh : s.woken.cpu.halted = false) : selectOpcode s = fetchOpcode s.woken := by
  unfold selectOpcode; rw [hd, hh]; rfl

/-- Without the halt bug, the opcode fetch passes the byte at PC, and the next one after the prefix (R75). -/
theorem fetchOpcode_of_no_haltBug {s : State} (h : s.cpu.haltBug = false) :
    fetchOpcode s = (if s.fetchVal = 0xCB then .cb s.afterFetch.fetchVal else .byte s.fetchVal,
      if s.fetchVal = 0xCB then s.afterFetch.afterFetch else s.afterFetch) := by
  unfold fetchOpcode; rw [h]; dsimp only; split <;> rfl

/-- The wake changes `halted` alone. -/
theorem State.woken_cpu (s : State) : s.woken.cpu = { s.cpu with halted := s.woken.cpu.halted } := by
  rcases s.woken_cases with e | ⟨_, _, e⟩ <;> rw [e]

theorem State.woken_out (s : State) : s.woken.out = s.out := by
  rcases s.woken_cases with e | ⟨_, _, e⟩ <;> rw [e]

theorem instrLength_pos (b : Byte) : 0 < instrLength b := by
  rcases instrLength_cases b with h | h | h <;> omega

/-- The opcode fetch and then the operand fetches are as many fetches as the instruction has bytes, or one for STOP (R74, log 7). -/
theorem State.afterFetch_operands (b : Byte) (s : State) :
    State.afterFetch^[if b = 0x10 then 0 else instrLength b - 1] s.afterFetch = State.afterFetch^[if b = 0x10 then 1 else instrLength b] s := by
  rw [← Function.iterate_succ_apply]
  congr 1
  have := instrLength_pos b
  split <;> omega

/-- A running machine whose wait is over answers what its cycle answers, the devices after it (R66, R241). -/
theorem step_of_cycle {s : State} {o : Out} (running : s.stopped = none) (idle : s.cpu.cpuWait = 0) (h : cycle s = o) :
    (∀ t, o = .next t → step s = .next (devices t)) ∧ (∀ e, o = .fault e → step s = .fault e) ∧ (∀ r, o = .refused r → step s = .refused r) := by
  have ran : cpuStep s = o := (if_neg (by omega)).trans h
  rw [step_of_running running, tick, ran]
  refine ⟨fun t e => ?_, fun f e => ?_, fun r e => ?_⟩ <;> rw [e]

/-- Settles O5: the cycle's opcode fetch is the first fetch, and the operands are the rest (`exec_fetchOperands`). -/
theorem stepRunsDecodedInstruction : Obligations.StepRunsDecodedInstruction := by
  intro s i rest c w b0 b1 b2 op fetched published f u running idle quiet awake noBug decodes
  have control : w.cpu = { c.cpu with halted := false } := by rw [← awake]; exact c.woken_cpu
  have bug : w.cpu.haltBug = false := by rw [control]; exact (beginCycle_haltBug s).trans noBug
  refine step_of_cycle running idle ?_
  unfold cycle fetchInstr
  rw [selectOpcode_of_awake quiet awake, fetchOpcode_of_no_haltBug bug]
  refine (exec_fetchOperands b0 w.afterFetch i rest decodes).trans ?_
  dsimp only
  rw [State.afterFetch_operands, State.afterFetch_cpu, State.afterFetch_out, control, State.woken_out, beginCycle_out, beginCycle_instrAddr]

end Sys2Proof.Machine
end

section
/-! SUPPORT. The loads, PUSH and POP (40_loads.md): each row of one shape, its word by the operand fields and its meaning by the operand form. -/

namespace Sys2Proof.Machine

-- One thread elaborates this part: a thread's stack and heap for each proof would pass the memory that a check of the whole text may take.
set_option Elab.async false

/-! ### The rows by their operands -/

@[simp] theorem encode_ldRegReg (dst src : Reg8) : encode (.ldRegReg dst src) = [opByte 1 dst.field src.field] := by
  cases dst <;> cases src <;> rfl
@[simp] theorem exec_ldRegReg (dst src : Reg8) (s : State) : exec (.ldRegReg dst src) s = ldRegFromReg dst src s := by
  cases dst <;> cases src <;> rfl

@[simp] theorem encode_ldRegN8 (r : Reg8) (n : Byte) : encode (.ldRegN8 r n) = [opByte 0 r.field 6, n] := by cases r <;> rfl
@[simp] theorem exec_ldRegN8 (r : Reg8) (n : Byte) (s : State) : exec (.ldRegN8 r n) s = ldRegFromImm r n s := by cases r <;> rfl

@[simp] theorem encode_ldRegAtHl (r : Reg8) : encode (.ldRegAtHl r) = [opByte 1 r.field 6] := by cases r <;> rfl
@[simp] theorem exec_ldRegAtHl (r : Reg8) (s : State) : exec (.ldRegAtHl r) s = ldRegFromMem r s.hl 2 s := by cases r <;> rfl

@[simp] theorem encode_ldAtHlReg (r : Reg8) : encode (.ldAtHlReg r) = [opByte 1 6 r.field] := by cases r <;> rfl
@[simp] theorem exec_ldAtHlReg (r : Reg8) (s : State) : exec (.ldAtHlReg r) s = stMem s.hl (s.reg8 r) 2 s := by cases r <;> rfl

@[simp] theorem encode_ldPairN16 (p : Pair) (w : Word) :
    encode (.ldPairN16 p w) = [BitVec.ofNat 8 (16 * p.field + 1), loByte w, hiByte w] := by cases p <;> rfl
@[simp] theorem exec_ldPairN16 (p : Pair) (w : Word) (s : State) : exec (.ldPairN16 p w) s = ldPairFromImm p w s := by cases p <;> rfl

@[simp] theorem encode_push (q : StackPair) : encode (.push q) = [BitVec.ofNat 8 (0xC5 + 16 * q.field)] := by cases q <;> rfl
@[simp] theorem exec_push (q : StackPair) (s : State) : exec (.push q) s = pushPair q s := by cases q <;> rfl

@[simp] theorem encode_pop (q : StackPair) : encode (.pop q) = [BitVec.ofNat 8 (0xC1 + 16 * q.field)] := by cases q <;> rfl
@[simp] theorem exec_pop (q : StackPair) (s : State) : exec (.pop q) s = popPair q s := by cases q <;> rfl

/-! ### Loads and stores of one byte (R87 to R105) -/

/-- Settles O9: each row's word and meaning; one row has no register operand and evaluates. -/
theorem eightBitLoads : Obligations.EightBitLoads := fun s dst r n =>
  ⟨encode_ldRegReg dst r, exec_ldRegReg dst r s, encode_ldRegN8 r n, exec_ldRegN8 r n s, encode_ldRegAtHl r, exec_ldRegAtHl r s,
    encode_ldAtHlReg r, exec_ldAtHlReg r s, rfl, rfl⟩

/-- Settles O10: the meanings evaluate to these states once a move by −1 is read as the subtraction of 1. -/
theorem indirectAccumulatorLoads : Obligations.IndirectAccumulatorLoads := by
  intro s
  have back : s.hl - 1 = s.hl + -1 := BitVec.sub_eq_add_neg s.hl 1
  rw [back]
  exact ⟨⟨rfl, rfl⟩, ⟨rfl, rfl⟩, ⟨rfl, rfl⟩, ⟨rfl, rfl⟩, ⟨rfl, rfl⟩, ⟨rfl, rfl⟩, ⟨rfl, rfl⟩, ⟨rfl, rfl⟩⟩

/-- The high-page address as a sum of numbers (R81). -/
theorem highPage_eq (o : Byte) : highPage o = BitVec.ofNat 16 (0xFF00 + o.toNat) := by
  rw [BitVec.ofNat_add, BitVec.ofNat_toNat]; rfl

/-- Settles O11: the meanings evaluate to these states once the two sums are read as high-page addresses. -/
theorem directAndHighPageLoads : Obligations.DirectAndHighPageLoads := by
  intro s w o page pageC
  have operand : page = highPage o := (highPage_eq o).symm
  have register : pageC = highPage s.regs.c := (highPage_eq s.regs.c).symm
  rw [operand, register]
  exact ⟨⟨rfl, rfl⟩, ⟨rfl, rfl⟩, ⟨rfl, rfl⟩, ⟨rfl, rfl⟩, ⟨rfl, rfl⟩, ⟨rfl, rfl⟩⟩

/-! ### Loads of a word, PUSH and POP (R106 to R111) -/

/-- Settles O12: LD rr,n16 by the pair; the two rows without a pair evaluate. -/
theorem sixteenBitLoads : Obligations.SixteenBitLoads := fun s p w =>
  ⟨⟨encode_ldPairN16 p w, exec_ldPairN16 p w s⟩, ⟨rfl, rfl⟩, ⟨rfl, rfl⟩⟩

/-- A pair written from a word's two bytes: the first-named half takes the high byte, and F the upper four bits of the low byte (R20, R22). -/
theorem State.setStackPair_joinBytes (s : State) (h l : Byte) :
    s.setStackPair .bc (joinBytes h l) = { s with regs.b := h, regs.c := l }
      ∧ s.setStackPair .de (joinBytes h l) = { s with regs.d := h, regs.e := l }
      ∧ s.setStackPair .hl (joinBytes h l) = { s with regs.h := h, regs.l := l }
      ∧ s.setStackPair .af (joinBytes h l) = { s with regs.a := h, regs.f := l &&& 0xF0 } := by
  simp only [State.setStackPair, State.setPair, State.setHl, State.setF, hiByte_joinBytes, loByte_joinBytes, and_self]

/-- Settles O13: PUSH is the two stores of `push16`; POP writes the halves of the word that `pop16` joins. -/
theorem pushAndPop : Obligations.PushAndPop := by
  intro s q sp s1 l1 popped lo hi
  obtain ⟨bc, de, hl, af⟩ := popped.setStackPair_joinBytes hi lo
  have pop (p : StackPair) : exec (.pop p) s = .next ((popped.setStackPair p (joinBytes hi lo)).cost 3) := exec_pop p s
  exact ⟨⟨encode_push q, exec_push q s⟩, encode_pop q, by rw [pop, bc], by rw [pop, de], by rw [pop, hl], by rw [pop, af]⟩

end Sys2Proof.Machine
end

section
/-! SUPPORT. 8-bit arithmetic and logic (41_alu8.md): each row of one shape by its operation and operand, and each operation's result and flags as numbers. -/

namespace Sys2Proof.Machine

-- One thread elaborates this part: a thread's stack and heap for each proof would pass the memory that a check of the whole text may take.
set_option Elab.async false

/-! ### The rows by their operands (R113, R138, R140) -/

@[simp] theorem encode_aluReg (op : AluOp) (r : Reg8) : encode (.aluReg op r) = [opByte 2 op.field r.field] := by
  cases op <;> cases r <;> rfl
@[simp] theorem exec_aluReg (op : AluOp) (r : Reg8) (s : State) : exec (.aluReg op r) s = aluReg op r s := by
  cases op <;> cases r <;> rfl
@[simp] theorem exec_aluAtHl (op : AluOp) (s : State) : exec (.aluAtHl op) s = aluAtHl op s := by cases op <;> rfl
@[simp] theorem exec_aluN8 (op : AluOp) (n : Byte) (s : State) : exec (.aluN8 op n) s = aluImm op n s := by cases op <;> rfl

@[simp] theorem encode_incReg (r : Reg8) : encode (.incReg r) = [opByte 0 r.field 4] := by cases r <;> rfl
@[simp] theorem exec_incReg (r : Reg8) (s : State) : exec (.incReg r) s = incReg8 r s := by cases r <;> rfl

@[simp] theorem encode_decReg (r : Reg8) : encode (.decReg r) = [opByte 0 r.field 5] := by cases r <;> rfl
@[simp] theorem exec_decReg (r : Reg8) (s : State) : exec (.decReg r) s = decReg8 r s := by cases r <;> rfl

section
variable {op : AluOp} {s t : State}

/-- The register form runs the operation on the register's byte. -/
theorem exec_aluReg_of_alu8 {r : Reg8} (h : s.alu8 op (s.reg8 r) = t) : exec (.aluReg op r) s = .next (t.cost 1) := by
  rw [exec_aluReg, aluReg, h]

/-- The memory form runs it on the byte at HL, after the load. -/
theorem exec_aluAtHl_of_alu8 (h : (s.afterLoad s.hl).alu8 op (s.loadVal s.hl) = t) : exec (.aluAtHl op) s = .next (t.cost 2) := by
  rw [exec_aluAtHl, aluAtHl, h]

/-- The immediate form runs it on the operand byte. -/
theorem exec_aluN8_of_alu8 {n : Byte} (h : s.alu8 op n = t) : exec (.aluN8 op n) s = .next (t.cost 2) := by
  rw [exec_aluN8, aluImm, h]

end

/-! ### Addition (R114 to R119) -/

/-- The state after A takes `a + b + c`, with the flags of an addition (R112). -/
def State.addWith (s : State) (b : Byte) (c : Nat) : State :=
  State.setFlags { s with regs.a := BitVec.ofNat 8 (s.regs.a.toNat + b.toNat + c) }
    (decide ((s.regs.a.toNat + b.toNat + c) % 256 = 0)) false
    (decide (s.regs.a.toNat % 16 + b.toNat % 16 + c > 15)) (decide (s.regs.a.toNat + b.toNat + c > 255))

/-- A result that is a natural number is zero when it is a multiple of 256. -/
theorem aluResult_natCast (x : Nat) (n h c : Bool) : aluResult x n h c = ⟨BitVec.ofNat 8 x, decide (x % 256 = 0), n, h, c⟩ := by
  simp [aluResult, BitVec.ofInt_natCast, ← BitVec.toNat_inj]

theorem State.alu8_adc (s : State) (b : Byte) : s.alu8 .adc b = s.addWith b s.flagC.toNat := by
  simp only [State.alu8, alu, ← Int.natCast_add, aluResult_natCast]
  rfl

theorem State.alu8_add (s : State) (b : Byte) : s.alu8 .add b = s.addWith b 0 := by
  simp only [State.alu8, alu, ← Int.natCast_add, aluResult_natCast]
  rfl

/-- Settles O15: each form is its operation on its operand; a load leaves the carry that ADC adds. -/
theorem additionInstructions : Obligations.AdditionInstructions := by
  intro s r n sum c
  have adcLoaded : (s.afterLoad s.hl).alu8 .adc (s.loadVal s.hl) = sum (s.afterLoad s.hl) (s.loadVal s.hl) c := by
    rw [State.alu8_adc, State.afterLoad_flagC]; rfl
  exact ⟨encode_aluReg .add r, rfl, rfl, encode_aluReg .adc r, rfl, rfl,
    exec_aluReg_of_alu8 (s.alu8_add _), exec_aluAtHl_of_alu8 (State.alu8_add _ _), exec_aluN8_of_alu8 (s.alu8_add n),
    exec_aluReg_of_alu8 (s.alu8_adc _), exec_aluAtHl_of_alu8 adcLoaded, exec_aluN8_of_alu8 (s.alu8_adc n)⟩

/-! ### Subtraction and comparison (R120 to R128) -/

/-- The flags of `a − b − c`, with the borrows as comparisons (R112). -/
def State.subFlags (s : State) (a b : Byte) (c : Nat) : State :=
  s.setFlags (decide ((b.toNat + c) % 256 = a.toNat)) true (decide (a.toNat % 16 < b.toNat % 16 + c)) (decide (a.toNat < b.toNat + c))

/-- The state after A takes `a − b − c` modulo 256, with the flags of a subtraction. -/
def State.subWith (s : State) (b : Byte) (c : Nat) : State :=
  State.subFlags { s with regs.a := s.regs.a - b - BitVec.ofNat 8 c } s.regs.a b c

/-- A difference of bytes, narrowed, is the difference modulo 256; it is zero when the two subtracted numbers sum to the first byte modulo 256. -/
theorem aluResult_sub (a b : Byte) (c : Nat) (n h k : Bool) :
    aluResult ((a.toNat : Int) - b.toNat - c) n h k = ⟨a - b - BitVec.ofNat 8 c, decide ((b.toNat + c) % 256 = a.toNat), n, h, k⟩ := by
  have narrowed : BitVec.ofInt 8 ((a.toNat : Int) - b.toNat - c) = a - b - BitVec.ofNat 8 c := by
    apply BitVec.eq_of_toNat_eq
    simp only [BitVec.toNat_ofInt, BitVec.toNat_sub, BitVec.toNat_ofNat]
    omega
  have zero_iff : a - b - BitVec.ofNat 8 c = 0 ↔ (b.toNat + c) % 256 = a.toNat := by
    simp only [← BitVec.toNat_inj, BitVec.toNat_sub, BitVec.ofNat_eq_ofNat, BitVec.toNat_ofNat]
    omega
  simp only [aluResult, narrowed, zero_iff]

theorem State.alu8_sbc (s : State) (b : Byte) : s.alu8 .sbc b = s.subWith b s.flagC.toNat := by
  simp only [State.alu8, alu, aluResult_sub]
  rfl

/-- SUB and CP compute what SBC computes without a carry (R112). -/
theorem alu_sub_eq_sbc (a b : Byte) (cin : Bool) : alu .sub a b cin = alu .sbc a b false := by simp [alu]
theorem alu_cp_eq_sbc (a b : Byte) (cin : Bool) : alu .cp a b cin = alu .sbc a b false := alu_sub_eq_sbc a b cin

theorem State.alu8_sub (s : State) (b : Byte) : s.alu8 .sub b = s.subWith b 0 := by
  simp only [State.alu8, alu_sub_eq_sbc]
  simp only [alu, aluResult_sub]
  rfl

theorem State.alu8_cp (s : State) (b : Byte) : s.alu8 .cp b = s.subFlags s.regs.a b 0 := by
  simp only [State.alu8, alu_cp_eq_sbc]
  simp only [alu, aluResult_sub]
  rfl

/-- Settles O16: each form is its operation on its operand; a load leaves the carry that SBC subtracts and the A that CP compares. -/
theorem subtractionInstructions : Obligations.SubtractionInstructions := by
  intro s r n flags sub c h m
  have sbcLoaded : h.alu8 .sbc m = sub h m c := by rw [State.alu8_sbc, State.afterLoad_flagC]; rfl
  have cpLoaded : h.alu8 .cp m = flags h s.regs.a m 0 := by rw [State.alu8_cp, State.afterLoad_regs]; rfl
  exact ⟨encode_aluReg .sub r, rfl, rfl, encode_aluReg .sbc r, rfl, rfl, encode_aluReg .cp r, rfl, rfl,
    exec_aluReg_of_alu8 (s.alu8_sub _), exec_aluAtHl_of_alu8 (h.alu8_sub m), exec_aluN8_of_alu8 (s.alu8_sub n),
    exec_aluReg_of_alu8 (s.alu8_sbc _), exec_aluAtHl_of_alu8 sbcLoaded, exec_aluN8_of_alu8 (s.alu8_sbc n),
    exec_aluReg_of_alu8 (s.alu8_cp _), exec_aluAtHl_of_alu8 cpLoaded, exec_aluN8_of_alu8 (s.alu8_cp n)⟩

/-! ### Logic (R129 to R137) -/

/-- The state after A takes the byte `v`, with Z from it, N and C cleared and H as given (R112). -/
def State.putLogic (s : State) (v : Byte) (h : Bool) : State := State.setFlags { s with regs.a := v } (v == 0) false h false

/-- A result that is a byte needs no narrowing. -/
theorem aluResult_toNat (v : Byte) (n h c : Bool) : aluResult v.toNat n h c = ⟨v, v == 0, n, h, c⟩ := by
  rw [aluResult, BitVec.ofInt_natCast, BitVec.ofNat_toNat, BitVec.setWidth_eq]; rfl

theorem State.alu8_and (s : State) (b : Byte) : s.alu8 .and b = s.putLogic (s.regs.a &&& b) true := by
  simp only [State.alu8, alu, aluResult_toNat]
  rfl

theorem State.alu8_xor (s : State) (b : Byte) : s.alu8 .xor b = s.putLogic (s.regs.a ^^^ b) false := by
  simp only [State.alu8, alu, aluResult_toNat]
  rfl

theorem State.alu8_or (s : State) (b : Byte) : s.alu8 .or b = s.putLogic (s.regs.a ||| b) false := by
  simp only [State.alu8, alu, aluResult_toNat]
  rfl

/-- Settles O17: each form is its operation on its operand; a load leaves the A that the memory forms combine. -/
theorem logicInstructions : Obligations.LogicInstructions := by
  intro s r n put h m a
  have loaded : h.regs.a = a := by rw [State.afterLoad_regs]
  have andLoaded : h.alu8 .and m = put h (a &&& m) true := by rw [State.alu8_and, loaded]; rfl
  have xorLoaded : h.alu8 .xor m = put h (a ^^^ m) false := by rw [State.alu8_xor, loaded]; rfl
  have orLoaded : h.alu8 .or m = put h (a ||| m) false := by rw [State.alu8_or, loaded]; rfl
  exact ⟨encode_aluReg .and r, rfl, rfl, encode_aluReg .xor r, rfl, rfl, encode_aluReg .or r, rfl, rfl,
    exec_aluReg_of_alu8 (s.alu8_and _), exec_aluAtHl_of_alu8 andLoaded, exec_aluN8_of_alu8 (s.alu8_and n),
    exec_aluReg_of_alu8 (s.alu8_xor _), exec_aluAtHl_of_alu8 xorLoaded, exec_aluN8_of_alu8 (s.alu8_xor n),
    exec_aluReg_of_alu8 (s.alu8_or _), exec_aluAtHl_of_alu8 orLoaded, exec_aluN8_of_alu8 (s.alu8_or n)⟩

/-! ### Increment and decrement (R138 to R141) -/

/-- Settles O18: each row's word and meaning; the write of the result comes before the flags and leaves the carry that they keep. -/
theorem incrementAndDecrement : Obligations.IncrementAndDecrement := by
  intro s r m
  have registerCarry (v : Byte) : (s.setReg8 r v).flagC = s.flagC := s.setReg8_flagC r v
  have memoryCarry (v : Byte) : ((s.afterLoad s.hl).store s.hl v).flagC = s.flagC := by rw [State.store_flagC, State.afterLoad_flagC]
  refine ⟨encode_incReg r, rfl, encode_decReg r, rfl, ?_, ?_, ?_, ?_⟩
  · rw [exec_incReg, ← registerCarry (s.reg8 r + 1)]; rfl
  · rw [exec_decReg, ← registerCarry (s.reg8 r - 1)]; rfl
  · rw [← memoryCarry (m + 1)]; rfl
  · rw [← memoryCarry (m - 1)]; rfl

/-! ### Decimal adjust and the flag instructions (R142 to R145) -/

/-- The digits' corrections have no bit in common, so that the correction is their sum (R142). -/
theorem daaCorrection_eq (low high : Bool) :
    ((if low then 0x06 else 0) ||| (if high then 0x60 else 0) : Byte) = BitVec.ofNat 8 ((if low then 0x06 else 0) + (if high then 0x60 else 0)) := by
  cases low <;> cases high <;> rfl

/-- DAA with both branches as one: after a subtraction only the flags H and C ask for a correction, and it is subtracted (R142). -/
theorem daaAdjust_eq (a : Byte) (n h c : Bool) :
    let low : Bool := h || (!n && decide (a.toNat % 16 > 9))
    let high : Bool := c || (!n && decide (a.toNat > 0x99))
    let adj := BitVec.ofNat 8 ((if low then 0x06 else 0) + (if high then 0x60 else 0))
    daaAdjust a n h c = (if n then a - adj else a + adj, high) := by
  intro low high adj
  cases n with
  | false => exact congrArg (fun k : Byte => (a + k, high)) (daaCorrection_eq low high)
  | true =>
    have half : low = h := Bool.or_false h
    have carry : high = c := Bool.or_false c
    simp only [adj, half, carry, ← daaCorrection_eq]
    rfl

/-- Settles O19: DAA by `daaAdjust_eq`; the other three evaluate. -/
theorem decimalAdjustAndFlagInstructions : Obligations.DecimalAdjustAndFlagInstructions := by
  intro s a low high adj r
  have adjusted : daaAdjust a s.flagN s.flagH s.flagC = (r, high) := daaAdjust_eq a s.flagN s.flagH s.flagC
  refine ⟨⟨rfl, ?_⟩, ⟨rfl, rfl⟩, ⟨rfl, rfl⟩, ⟨rfl, rfl⟩⟩
  have runs : exec .daa s = execDaa s := rfl
  rw [runs, execDaa, adjusted]
  rfl

end Sys2Proof.Machine
end

section
/-! SUPPORT. 16-bit arithmetic (42_alu16.md): each row of a pair by its word and its meaning, and the sums of words and displacements as numbers. -/

namespace Sys2Proof.Machine

-- One thread elaborates this part: a thread's stack and heap for each proof would pass the memory that a check of the whole text may take.
set_option Elab.async false

/-! ### The rows by their pairs (R146 to R148) -/

@[simp] theorem encode_incPair (p : Pair) : encode (.incPair p) = [BitVec.ofNat 8 (16 * p.field + 3)] := by cases p <;> rfl
@[simp] theorem exec_incPair (p : Pair) (s : State) : exec (.incPair p) s = incPair16 p s := by cases p <;> rfl

@[simp] theorem encode_decPair (p : Pair) : encode (.decPair p) = [BitVec.ofNat 8 (16 * p.field + 11)] := by cases p <;> rfl
@[simp] theorem exec_decPair (p : Pair) (s : State) : exec (.decPair p) s = decPair16 p s := by cases p <;> rfl

@[simp] theorem encode_addHlPair (p : Pair) : encode (.addHlPair p) = [BitVec.ofNat 8 (16 * p.field + 9)] := by cases p <;> rfl
@[simp] theorem exec_addHlPair (p : Pair) (s : State) : exec (.addHlPair p) s = addHl16 p s := by cases p <;> rfl

/-! ### Sums of numbers narrowed to a word (R11) -/

/-- The sum of two words, taken exactly and then narrowed. -/
theorem ofNat_toNat_add_toNat (x y : Word) : BitVec.ofNat 16 (x.toNat + y.toNat) = x + y :=
  BitVec.eq_of_toNat_eq (by rw [BitVec.toNat_ofNat, BitVec.toNat_add])

/-- A word plus a signed displacement, taken exactly and then narrowed: sign extension narrows the displacement's integer. -/
theorem ofInt_toNat_add_toInt (w : Word) (e : Byte) : BitVec.ofInt 16 (w.toNat + e.toInt) = w + sext8 e := by
  rw [BitVec.ofInt_add, BitVec.ofInt_natCast, BitVec.ofNat_toNat, BitVec.setWidth_eq]; rfl

/-! ### The instructions (R146 to R151) -/

/-- Settles O20: each row's word and meaning, with the two sums of numbers read as sums of words. -/
theorem sixteenBitArithmetic : Obligations.SixteenBitArithmetic := by
  intro s p h v
  have next : BitVec.ofNat 16 (v + 1) = s.pair p + 1 := ofNat_toNat_add_toNat (s.pair p) 1
  have sum : BitVec.ofNat 16 (h + v) = s.hl + s.pair p := ofNat_toNat_add_toNat s.hl (s.pair p)
  rw [next, sum]
  exact ⟨encode_incPair p, encode_decPair p, encode_addHlPair p, exec_incPair p s, exec_decPair p s, exec_addHlPair p s⟩

/-- Settles O21: both meanings evaluate to these states once the signed sum is read as the model's. -/
theorem signedOffsetSums : Obligations.SignedOffsetSums := by
  intro s e r flags
  have sum : r = spPlus s.regs.sp e := ofInt_toNat_add_toInt s.regs.sp e
  rw [sum]
  exact ⟨⟨rfl, rfl⟩, ⟨rfl, rfl⟩⟩

end Sys2Proof.Machine
end

section
/-! SUPPORT. Rotates, shifts and bits (43_bitops.md): each row of one shape by its operation and operand, the table of R156 bit by bit, and the mask of one bit. -/

namespace Sys2Proof.Machine

-- One thread elaborates this part: a thread's stack and heap for each proof would pass the memory that a check of the whole text may take.
set_option Elab.async false

/-! ### The rows by their operations (R156) -/

@[simp] theorem encode_shiftReg (op : ShiftOp) (r : Reg8) : encode (.shiftReg op r) = [0xCB, opByte 0 op.field r.field] := by
  cases op <;> rfl
@[simp] theorem exec_shiftReg (op : ShiftOp) (r : Reg8) (s : State) : exec (.shiftReg op r) s = shiftReg8 op r s := by cases op <;> rfl

@[simp] theorem encode_shiftAtHl (op : ShiftOp) : encode (.shiftAtHl op) = [0xCB, opByte 0 op.field 6] := by cases op <;> rfl
@[simp] theorem exec_shiftAtHl (op : ShiftOp) (s : State) : exec (.shiftAtHl op) s = shiftMem op s := by cases op <;> rfl

/-! ### One place up or down, with the bit that comes in -/

/-- Doubling moves the bits one place up, and the added bit comes in below. -/
theorem ofNat_double_add_bit (v : Byte) (k : Bool) : BitVec.ofNat 8 (v.toNat * 2 + k.toNat) = (v.extractLsb' 0 7).concat k := by
  have bit := k.toNat_lt
  apply BitVec.eq_of_toNat_eq
  rw [BitVec.toNat_concat, BitVec.extractLsb'_toNat, BitVec.toNat_ofNat]
  omega

/-- Halving moves the bits one place down, and the added bit comes in above. -/
theorem ofNat_half_add_bit (v : Byte) (k : Bool) : BitVec.ofNat 8 (v.toNat / 2 + 128 * k.toNat) = (v.extractLsb' 1 7).cons k := by
  have byte := v.isLt
  have bit := k.toNat_lt
  apply BitVec.eq_of_toNat_eq
  rw [BitVec.toNat_cons', BitVec.extractLsb'_toNat, BitVec.toNat_ofNat, Nat.shiftLeft_eq, Nat.shiftRight_eq_div_pow]
  omega

theorem rotateLeft_one_eq_concat (v : Byte) : v.rotateLeft 1 = (v.extractLsb' 0 7).concat (v.getLsbD 7) := by
  ext i hi
  cases i with
  | zero => simp [BitVec.getElem_rotateLeft, BitVec.getElem_concat]
  | succ i => simp [BitVec.getElem_rotateLeft, BitVec.getLsbD_eq_getElem (Nat.lt_of_succ_lt hi)]

theorem rotateRight_one_eq_cons (v : Byte) : v.rotateRight 1 = (v.extractLsb' 1 7).cons (v.getLsbD 0) := by
  ext i hi
  obtain rfl | below : i = 7 ∨ i < 7 := by omega
  · simp [BitVec.getElem_rotateRight, BitVec.getElem_cons]
  · have inside : 1 + i < 8 := by omega
    simp [BitVec.getElem_rotateRight, BitVec.getElem_cons, below, below.ne, BitVec.getLsbD_eq_getElem inside]

theorem sshiftRight_one_eq_cons (v : Byte) : v.sshiftRight 1 = (v.extractLsb' 1 7).cons (v.getLsbD 7) := by
  ext i hi
  obtain rfl | below : i = 7 ∨ i < 7 := by omega
  · simp [BitVec.getElem_sshiftRight, BitVec.getElem_cons, BitVec.msb_eq_getLsbD_last]
  · have inside : 1 + i < 8 := by omega
    simp [BitVec.getElem_sshiftRight, BitVec.getElem_cons, below.ne, inside]

theorem shiftLeft_one_eq_concat (v : Byte) : v <<< 1 = (v.extractLsb' 0 7).concat false := BitVec.shiftLeft_eq_concat_of_lt (by decide)
theorem ushiftRight_one_eq_cons (v : Byte) : v >>> 1 = (v.extractLsb' 1 7).cons false :=
  BitVec.ushiftRight_eq_extractLsb'_of_lt (by decide)

/-- The halves of a byte exchanged, as a sum of numbers. -/
theorem ofNat_swapped_halves (v : Byte) :
    BitVec.ofNat 8 (16 * (v.toNat % 16) + v.toNat / 16) = v.extractLsb' 0 4 ++ v.extractLsb' 4 4 := by
  have byte := v.isLt
  have low : (v.extractLsb' 0 4).toNat = v.toNat % 16 := BitVec.extractLsb'_toNat ..
  have high : (v.extractLsb' 4 4).toNat = v.toNat / 16 := by
    rw [BitVec.extractLsb'_toNat, Nat.shiftRight_eq_div_pow]
    omega
  apply BitVec.eq_of_toNat_eq
  rw [BitVec.toNat_append, ← Nat.shiftLeft_add_eq_or_of_lt (BitVec.isLt _), low, high, BitVec.toNat_ofNat, Nat.shiftLeft_eq]
  omega

/-! ### The table of R156, bit by bit -/

section
variable (v : Byte) (c : Bool)

theorem shiftResult_rl : shiftResult .rl v c = ((v.extractLsb' 0 7).concat c, v.getLsbD 7) :=
  congrArg (·, v.getLsbD 7) (ofNat_double_add_bit v c)

theorem shiftResult_rr : shiftResult .rr v c = ((v.extractLsb' 1 7).cons c, v.getLsbD 0) :=
  congrArg (·, v.getLsbD 0) (ofNat_half_add_bit v c)

/-- RLC is RL with bit 7 as the carry that comes in. -/
theorem shiftResult_rlc : shiftResult .rlc v c = (v.rotateLeft 1, v.getLsbD 7) := by
  rw [rotateLeft_one_eq_concat, ← shiftResult_rl]; rfl

/-- RRC is RR with bit 0 as the carry that comes in. -/
theorem shiftResult_rrc : shiftResult .rrc v c = (v.rotateRight 1, v.getLsbD 0) := by
  rw [rotateRight_one_eq_cons, ← shiftResult_rr]; rfl

/-- SLA is RL with no carry. -/
theorem shiftResult_sla : shiftResult .sla v c = (v <<< 1, v.getLsbD 7) := by
  rw [shiftLeft_one_eq_concat, ← shiftResult_rl]; rfl

/-- SRA is RR with bit 7 as the carry that comes in. -/
theorem shiftResult_sra : shiftResult .sra v c = (v.sshiftRight 1, v.getLsbD 0) := by
  rw [sshiftRight_one_eq_cons, ← shiftResult_rr]; rfl

/-- SRL is RR with no carry. -/
theorem shiftResult_srl : shiftResult .srl v c = (v >>> 1, v.getLsbD 0) := by
  rw [ushiftRight_one_eq_cons, ← shiftResult_rr]; rfl

theorem shiftResult_swap : shiftResult .swap v c = (v.extractLsb' 0 4 ++ v.extractLsb' 4 4, false) :=
  congrArg (·, false) (ofNat_swapped_halves v)

end

/-! ### Rotates and shifts (R152 to R172) -/

/-- An accumulator rotate puts the table's result into A and only the new carry into F. -/
theorem rotA_of_shiftResult {op : ShiftOp} {s : State} {r : Byte} {k : Bool} (h : shiftResult op s.regs.a s.flagC = (r, k)) :
    rotA op s = .next (State.cost (State.setFlags { s with regs.a := r } false false false k) 1) := by
  rw [rotA, h]; rfl

/-- Settles O22: each row's word, and its meaning by its row of the table. -/
theorem accumulatorRotates : Obligations.AccumulatorRotates := fun s =>
  ⟨⟨rfl, rotA_of_shiftResult (shiftResult_rlc s.regs.a s.flagC)⟩, ⟨rfl, rotA_of_shiftResult (shiftResult_rrc s.regs.a s.flagC)⟩,
    ⟨rfl, rotA_of_shiftResult (shiftResult_rl s.regs.a s.flagC)⟩, ⟨rfl, rotA_of_shiftResult (shiftResult_rr s.regs.a s.flagC)⟩⟩

/-- Settles O23: the table is the statement's result and carry, operation by operation; both forms run the table. -/
theorem prefixedRotatesAndShifts : Obligations.PrefixedRotatesAndShifts := by
  intro s op r res out flags m
  have table (v : Byte) : shiftResult op v s.flagC = (res v, out v) := by
    cases op with
    | rlc => exact shiftResult_rlc v s.flagC
    | rrc => exact shiftResult_rrc v s.flagC
    | rl => exact shiftResult_rl v s.flagC
    | rr => exact shiftResult_rr v s.flagC
    | sla => exact shiftResult_sla v s.flagC
    | sra => exact shiftResult_sra v s.flagC
    | swap => exact shiftResult_swap v s.flagC
    | srl => exact shiftResult_srl v s.flagC
  refine ⟨encode_shiftReg op r, encode_shiftAtHl op, ?_, ?_⟩
  · rw [exec_shiftReg, shiftReg8, table]; rfl
  · rw [exec_shiftAtHl, shiftMem, table]; rfl

/-! ### BIT, RES and SET (R173 to R178) -/

theorem bitMask_eq_twoPow (b : Fin 8) : bitMask b = BitVec.twoPow 8 b.val :=
  BitVec.eq_of_toNat_eq ((BitVec.toNat_ofNat _ _).trans (BitVec.toNat_twoPow _ _).symm)

/-- The mask of RES is the complement of the bit. -/
theorem xor_bitMask_eq_not_twoPow (b : Fin 8) : 0xFF ^^^ bitMask b = ~~~BitVec.twoPow 8 b.val :=
  BitVec.allOnes_xor.trans (congrArg (~~~·) (bitMask_eq_twoPow b))

/-- Settles O24: the words and BIT on a register evaluate; a load leaves the carry that BIT keeps; RES and SET by their masks. -/
theorem bitInstructions : Obligations.BitInstructions := by
  intro s b r mask m h
  have setMask : bitMask b = mask := bitMask_eq_twoPow b
  have resMask : 0xFF ^^^ bitMask b = ~~~mask := xor_bitMask_eq_not_twoPow b
  have loadedCarry : h.flagC = s.flagC := s.afterLoad_flagC s.hl
  rw [← resMask, ← setMask]
  exact ⟨rfl, rfl, rfl, rfl, rfl, rfl, rfl, by rw [← loadedCarry]; rfl, rfl, rfl, rfl, rfl⟩

end Sys2Proof.Machine
end

section
/-! SUPPORT. Jumps, calls and returns (44_control.md): each conditional row and RST by its field and its operation, and that the stack gives back the word
that was pushed. -/

namespace Sys2Proof.Machine

-- One thread elaborates this part: a thread's stack and heap for each proof would pass the memory that a check of the whole text may take.
set_option Elab.async false

/-! ### The rows by their conditions and their vectors (R79, R187) -/

@[simp] theorem encode_jpCond (cc : Cond) (w : Word) :
    encode (.jpCond cc w) = [BitVec.ofNat 8 (0xC2 + 8 * cc.field), loByte w, hiByte w] := by cases cc <;> rfl
@[simp] theorem exec_jpCond (cc : Cond) (w : Word) (s : State) : exec (.jpCond cc w) s = jumpIf cc w 4 3 s := by cases cc <;> rfl

@[simp] theorem encode_jrCond (cc : Cond) (e : Byte) : encode (.jrCond cc e) = [BitVec.ofNat 8 (0x20 + 8 * cc.field), e] := by cases cc <;> rfl
@[simp] theorem exec_jrCond (cc : Cond) (e : Byte) (s : State) : exec (.jrCond cc e) s = jumpIf cc (relTarget e s) 3 2 s := by cases cc <;> rfl

@[simp] theorem encode_callCond (cc : Cond) (w : Word) :
    encode (.callCond cc w) = [BitVec.ofNat 8 (0xC4 + 8 * cc.field), loByte w, hiByte w] := by cases cc <;> rfl
@[simp] theorem exec_callCond (cc : Cond) (w : Word) (s : State) : exec (.callCond cc w) s = callIf cc w s := by cases cc <;> rfl

@[simp] theorem encode_retCond (cc : Cond) : encode (.retCond cc) = [BitVec.ofNat 8 (0xC0 + 8 * cc.field)] := by cases cc <;> rfl
@[simp] theorem exec_retCond (cc : Cond) (s : State) : exec (.retCond cc) s = returnIf cc s := by cases cc <;> rfl

@[simp] theorem encode_rst (n : Fin 8) : encode (.rst n) = [BitVec.ofNat 8 (0xC7 + 8 * n.val)] := by fin_cases n <;> rfl
@[simp] theorem exec_rst (n : Fin 8) (s : State) : exec (.rst n) s = callTo (BitVec.ofNat 16 (8 * n.val)) 4 s := by fin_cases n <;> rfl

theorem exec_callA16 (w : Word) (s : State) : exec (.callA16 w) s = callTo w 6 s := rfl
theorem exec_ret (s : State) : exec .ret s = returnFrom 4 s := rfl

/-! ### The two outcomes of a conditional transfer (R181, R184, R186, R189) -/

theorem jumpIf_eq (cc : Cond) (w : Word) (m n : Nat) (s : State) :
    jumpIf cc w m n s = .next (if s.cond cc then (s.setPc w).cost m else s.cost n) := (apply_ite (.next : State → Out) ..).symm

theorem callIf_eq (cc : Cond) (w : Word) (s : State) :
    callIf cc w s = .next (if s.cond cc then ((s.push16 s.regs.pc).setPc w).cost 6 else s.cost 3) := (apply_ite (.next : State → Out) ..).symm

theorem returnIf_eq (cc : Cond) (s : State) :
    returnIf cc s = .next (if s.cond cc then (s.afterPop.setPc s.popVal).cost 5 else s.cost 2) := (apply_ite (.next : State → Out) ..).symm

/-! ### Pops and the words that they return (R15) -/

/-- A jump after a pop changes SP and PC and may have taken the draws of the two loads. -/
theorem State.afterPop_setPc (s : State) (w : Word) :
    s.afterPop.setPc w =
      { (s.afterLoad s.regs.sp).afterLoad (s.regs.sp + 1) with regs := { s.regs with sp := s.regs.sp + 2, pc := w } } := by
  simp [State.afterPop, State.setSp, State.setPc]

/-- The word that a pop returns depends neither on PC nor on the wait of the cycle. -/
theorem State.popVal_setPc_cost (s : State) (w : Word) (m : Nat) : ((s.setPc w).cost m).popVal = s.popVal := by
  have load : ((s.setPc w).cost m).afterLoad s.regs.sp = ((s.afterLoad s.regs.sp).setPc w).cost m := by
    unfold State.afterLoad; split <;> rfl
  rw [State.popVal, State.cost_regs, State.setPc_regs_sp, load]; rfl

/-! ### Jumps, calls and returns (R180 to R190) -/

/-- Settles O26: each row's word and meaning, with the target of JR read as the model's. -/
theorem jumps : Obligations.Jumps := by
  intro s cc w e holds y go near
  have taken : holds = s.cond cc := by cases cc <;> rfl
  have field : y = cc.field := by cases cc <;> rfl
  have target : near = relTarget e s := ofInt_toNat_add_toInt s.regs.pc e
  rw [taken, field, target]
  exact ⟨⟨rfl, rfl⟩, ⟨encode_jpCond cc w, (exec_jpCond cc w s).trans (jumpIf_eq ..)⟩, ⟨rfl, rfl⟩, ⟨rfl, rfl⟩,
    ⟨encode_jrCond cc e, (exec_jrCond cc e s).trans (jumpIf_eq ..)⟩⟩

/-- Settles O27: each row's word and meaning; the two stores of the statement are `push16`. -/
theorem callsAndRestarts : Obligations.CallsAndRestarts := by
  intro s cc w n holds y sp s1 pushed
  have taken : holds = s.cond cc := by cases cc <;> rfl
  have field : y = cc.field := by cases cc <;> rfl
  rw [taken, field]
  exact ⟨⟨rfl, rfl⟩, ⟨encode_callCond cc w, (exec_callCond cc w s).trans (callIf_eq ..)⟩, ⟨encode_rst n, exec_rst n s⟩⟩

/-- Settles O28: each row's word and meaning; the state of the statement is the jump to the word that was popped. -/
theorem returns : Obligations.Returns := by
  intro s cc holds y sp l1 popped
  have taken : holds = s.cond cc := by cases cc <;> rfl
  have field : y = cc.field := by cases cc <;> rfl
  have returned : popped = s.afterPop.setPc s.popVal := (s.afterPop_setPc s.popVal).symm
  rw [taken, field, returned]
  exact ⟨⟨rfl, rfl⟩, ⟨encode_retCond cc, (exec_retCond cc s).trans (returnIf_eq ..)⟩, ⟨rfl, rfl⟩⟩

/-! ### What was pushed comes back (R15, R61) -/

/-- No byte of the block's RAM is answered by the environment. -/
theorem State.afterLoad_of_ramKey {s : State} {a : Word} (h : (ramKey a).isSome = true) : s.afterLoad a = s := by
  refine State.afterLoad_of_not_env (isEnvAddr_outside_io ?_)
  rw [ramKey_eq] at h
  by_contra io
  rw [if_neg (by omega), if_neg (by omega)] at h
  cases h

/-- With both stack bytes in unlocked RAM, the word that was pushed is popped: the second store does not reach the byte of the first. -/
theorem State.popVal_push16 {s : State} (mem : MemInv s) (hHigh : (ramKey (s.regs.sp - 1)).isSome = true)
    (hLow : (ramKey (s.regs.sp - 2)).isSome = true) (hv : s.vramLocked = false) (ho : s.oamLocked = false) (w : Word) :
    (s.push16 w).popVal = w := by
  obtain ⟨high, keyHigh⟩ := Option.isSome_iff_exists.1 hHigh
  obtain ⟨low, keyLow⟩ := Option.isSome_iff_exists.1 hLow
  have apart : ramKey (s.regs.sp - 1) ≠ some low := by
    intro shared
    rcases eq_or_echo_of_ramKey_eq hHigh (shared.trans keyLow.symm) with e | e | e <;> bv_omega
  let s1 := s.store (s.regs.sp - 1) (hiByte w)
  have s1_eq : s1 = s.setRamByte high (hiByte w) := State.store_unlocked _ keyHigh hv ho
  obtain ⟨readHigh, -⟩ := ramReadsBackWhatWasStored s _ (s.regs.sp - 1) high (hiByte w) mem keyHigh hv ho
  obtain ⟨readLow, others⟩ := ramReadsBackWhatWasStored s1 (s.regs.sp - 2) (s.regs.sp - 1) low (loByte w) (mem.store _ _) keyLow
    (by rw [s1_eq]; exact hv) (by rw [s1_eq]; exact ho)
  have next : s.regs.sp - 2 + 1 = s.regs.sp - 1 := by bv_omega
  rw [State.popVal, State.push16_regs, State.afterLoad_of_ramKey hLow, next, State.push16_eq]
  calc joinBytes ((s1.store (s.regs.sp - 2) (loByte w)).loadVal (s.regs.sp - 1)) ((s1.store (s.regs.sp - 2) (loByte w)).loadVal (s.regs.sp - 2))
      = joinBytes (hiByte w) (loByte w) := by rw [others apart, readHigh, readLow]
    _ = w := joinBytes_parts w

/-- Settles O14: CALL pushes PC and RET pops what was pushed; SP goes down by 2 and up again. -/
theorem returnComesBackAfterCall : Obligations.ReturnComesBackAfterCall := by
  intro s w mem hHigh hLow hv ho
  let t := ((s.push16 s.regs.pc).setPc w).cost 6
  let u := (t.afterPop.setPc t.popVal).cost 4
  have called : t.regs = { s.regs with pc := w, sp := s.regs.sp - 2 } := by simp [t, State.setPc, State.cost]
  have popped : t.popVal = s.regs.pc :=
    (State.popVal_setPc_cost _ w 6).trans (State.popVal_push16 mem hHigh hLow hv ho s.regs.pc)
  have returned : u.regs = { t.regs with sp := t.regs.sp + 2, pc := t.popVal } := congrArg State.regs (t.afterPop_setPc t.popVal)
  have sp : s.regs.sp - 2 + 2 = s.regs.sp := BitVec.sub_add_cancel ..
  exact ⟨t, u, exec_callA16 w s, called, exec_ret t, by rw [returned, called, popped, sp]⟩

end Sys2Proof.Machine
end

section
/-! SUPPORT. The system instructions and the stops (45_system.md, 60_exceptions.md R201): the halt bug, the instructions that complete, and where IME changes. -/

namespace Sys2Proof.Machine

-- One thread elaborates this part: a thread's stack and heap for each proof would pass the memory that a check of the whole text may take.
set_option Elab.async false

/-! ### Step 3 of a cycle, by its cases (R196, R197) -/

theorem State.dispatches_of_ime {s : State} (hi : s.cpu.ime = true) (hp : s.pending ≠ 0) : s.dispatches = true := by
  rw [State.dispatches, hi, Bool.true_and]; exact bne_iff_ne.2 hp

theorem State.dispatches_of_not_ime {s : State} (hi : s.cpu.ime = false) : s.dispatches = false := by rw [State.dispatches, hi]; rfl

/-- A CPU that is not halted has nothing to wake from. -/
theorem State.woken_of_not_halted {s : State} (h : s.cpu.halted = false) : s.woken = s := if_neg fun c => Bool.false_ne_true (h.symm.trans c.1)

/-- A halted CPU stays halted while no request is pending. -/
theorem State.woken_of_not_pending {s : State} (h : s.pending = 0) : s.woken = s := if_neg fun c => c.2 h

theorem State.woken_of_pending {s : State} (hh : s.cpu.halted = true) (hp : s.pending ≠ 0) : s.woken = { s with cpu.halted := false } :=
  if_pos ⟨hh, hp⟩

theorem selectOpcode_of_dispatches {s : State} (h : s.dispatches = true) : selectOpcode s = interruptEntry s := if_pos h

theorem selectOpcode_of_halted {s : State} (hd : s.dispatches = false) (hh : s.woken.cpu.halted = true) : selectOpcode s = (.halting, s.woken) := by
  unfold selectOpcode; rw [hd, hh]; rfl

/-! ### The halt bug (R198) -/

/-- The state after the opcode fetch of the halt bug: PC stays at the byte, and the bug is over. -/
def State.afterStuckFetch (s : State) : State := { s.afterLoad s.regs.pc with cpu.haltBug := false }

theorem State.afterStuckFetch_cpu (s : State) : s.afterStuckFetch.cpu = { s.cpu with haltBug := false } := by simp [State.afterStuckFetch]

theorem State.afterStuckFetch_out (s : State) : s.afterStuckFetch.out = s.out := by simp [State.afterStuckFetch]

/-- With the halt bug, the opcode fetch does not pass the byte at PC, which is read again as the second byte after the prefix (R75). -/
theorem fetchOpcode_of_haltBug {s : State} (h : s.cpu.haltBug = true) :
    fetchOpcode s = (if s.fetchVal = 0xCB then .cb s.afterStuckFetch.fetchVal else .byte s.fetchVal,
      if s.fetchVal = 0xCB then s.afterStuckFetch.afterFetch else s.afterStuckFetch) := by
  unfold fetchOpcode; rw [h]; dsimp only; split <;> rfl

/-- Settles O6: the opcode fetch leaves PC at the byte, and the operands are fetched from there (`exec_fetchOperands`). -/
theorem haltBugReadsTheByteTwice : Obligations.HaltBugReadsTheByteTwice := by
  intro s i rest c b0 w b1 b2 op fetched published f u bugged awake
  have bug : c.cpu.haltBug = true := (beginCycle_haltBug s).trans bugged
  have notHalted : c.cpu.halted = false := (beginCycle_halted s).trans awake
  have woken : c.woken = c := State.woken_of_not_halted notHalted
  refine ⟨(if_pos bug).trans (by rw [beginCycle_regs]), fun quiet decodes => ?_⟩
  unfold cycle fetchInstr
  rw [selectOpcode_of_awake quiet (by rw [woken]; exact notHalted), woken, fetchOpcode_of_haltBug bug]
  refine (exec_fetchOperands b0 c.afterStuckFetch i rest decodes).trans ?_
  dsimp only
  rw [State.afterStuckFetch_cpu, State.afterStuckFetch_out, beginCycle_out, beginCycle_instrAddr, notHalted]
  rfl

/-! ### The instructions that stop the machine (R199 to R201) -/

/-- Each illegal byte is an instruction of its own, whose whole effect is the fault (R200). -/
theorem illegal_opcode_faults (s : State) {b : Byte} (h : b ∈ [(0xD3 : Byte), 0xDB, 0xDD, 0xE3, 0xE4, 0xEB, 0xEC, 0xED, 0xF4, 0xFC, 0xFD]) :
    ∃ i, decode [b] = .ok (i, []) ∧ encode i = [b] ∧ exec i s = .fault (.unknownOpcode s.cpu.instrAddr b s.regs.pc) := by
  fin_cases h <;> exact ⟨_, rfl, rfl, rfl⟩

theorem exec_ne_next_of_stops {i : Instr} (h : i.stops = true) (s t : State) : exec i s ≠ .next t := by
  cases i with
  | stop | illegalD3 | illegalDB | illegalDD | illegalE3 | illegalE4 | illegalEB | illegalEC | illegalED | illegalF4 | illegalFC | illegalFD =>
      nofun
  | _ => exact absurd h Bool.false_ne_true

/-- HALT completes in both of its cases (R195). -/
theorem execHalt_next (s : State) : ∃ t, execHalt s = .next t := by
  unfold execHalt; split <;> exact ⟨_, rfl⟩

/-- An instruction that does not stop the machine completes: a conditional transfer, HALT and the prefix in each of their cases, any other in its only one. -/
theorem exec_next_of_not_stops {i : Instr} (h : i.stops = false) (s : State) : ∃ t, exec i s = .next t := by
  cases i with
  | jrNzE8 | jrZE8 | jrNcE8 | jrCE8 | jpNzA16 | jpZA16 | jpNcA16 | jpCA16 => exact ⟨_, jumpIf_eq ..⟩
  | callNzA16 | callZA16 | callNcA16 | callCA16 => exact ⟨_, callIf_eq ..⟩
  | retNz | retZ | retNc | retC => exact ⟨_, returnIf_eq ..⟩
  | halt => exact execHalt_next s
  | prefixCb => exact runCb_next s.fetchVal s.afterFetch
  | stop | illegalD3 | illegalDB | illegalDD | illegalE3 | illegalE4 | illegalEB | illegalEC | illegalED | illegalF4 | illegalFC | illegalFD =>
      exact absurd h.symm Bool.false_ne_true
  | _ => exact ⟨_, rfl⟩

/-- Settles O30. -/
theorem onlyStopAndIllegalOpcodesStop : Obligations.OnlyStopAndIllegalOpcodesStop := fun s _ =>
  ⟨⟨rfl, rfl⟩, fun _ h => illegal_opcode_faults s h, fun _ h => exec_ne_next_of_stops h s, fun _ h => exec_next_of_not_stops h s⟩

/-! ### Where IME changes (R190, R192, R194, R205) -/

/-- Where the EI delay does not run out, steps 1 and 2 leave IME. -/
theorem beginCycle_ime {s : State} (h : s.cpu.eiDelay ≠ 1) : (beginCycle s).cpu.ime = s.cpu.ime := by
  obtain ⟨_, _, e, ime, _⟩ := beginCycle_eq s
  rw [e]
  exact ime h

/-- Step 3 clears IME in an interrupt entry only. -/
theorem selectOpcode_ime {s : State} (h : s.dispatches = false) : (selectOpcode s).2.cpu.ime = s.cpu.ime := by
  have woken : s.woken.cpu.ime = s.cpu.ime := by rw [State.woken_cpu]
  cases hh : s.woken.cpu.halted with
  | true => rw [selectOpcode_of_halted h hh]; exact woken
  | false => rw [selectOpcode_of_awake h hh, fetchOpcode_cpu]; exact woken

/-- In a cycle without an entry, the instruction runs with the IME that steps 1 and 2 left. -/
theorem fetchInstr_ime {s : State} (h : (beginCycle s).dispatches = false) : (fetchInstr s).2.cpu.ime = (beginCycle s).cpu.ime := by
  unfold fetchInstr
  dsimp only
  rw [fetchOperands_cpu]
  exact selectOpcode_ime h

/-- A cycle with none of the four events leaves IME. -/
theorem cycle_ime {s t : State} (h : cycle s = .next t) (delay : s.cpu.eiDelay ≠ 1) (quiet : (beginCycle s).dispatches = false)
    (hdi : (fetchInstr s).1 ≠ .di) (hreti : (fetchInstr s).1 ≠ .reti) : t.cpu.ime = s.cpu.ime := by
  obtain ⟨-, -, -, ime, -⟩ := registerFrame _ _ _ h
  calc t.cpu.ime = (fetchInstr s).2.cpu.ime := ime hdi hreti
    _ = (beginCycle s).cpu.ime := fetchInstr_ime quiet
    _ = s.cpu.ime := beginCycle_ime delay

/-- Settles O42: the devices and a wait leave IME, and so does a cycle with none of the four events. -/
theorem onlyFourEventsChangeIme : Obligations.OnlyFourEventsChangeIme := by
  intro s t hst changed
  obtain ⟨u, hu, rfl⟩ := step_cases hst
  rw [(devices_regs_cpu u).2] at changed
  unfold cpuStep at hu
  split at hu
  next => cases hu; exact absurd rfl changed
  next idle =>
    refine ⟨Nat.eq_zero_of_not_pos idle, ?_⟩
    by_contra others
    simp only [not_or, Bool.not_eq_true] at others
    obtain ⟨delay, quiet, hdi, hreti⟩ := others
    exact changed (cycle_ime hu delay quiet hdi hreti)

/-! ### The system instructions and the pseudo-opcodes (R191 to R197, R206, R207) -/

theorem resolveEi_of_zero {s : State} (h : s.cpu.eiDelay = 0) : resolveEi s = s := if_neg (by omega)

/-- The EI delay runs out: IME becomes true. -/
theorem resolveEi_of_one {s : State} (h : s.cpu.eiDelay = 1) : resolveEi s = { s with cpu := { s.cpu with eiDelay := 0, ime := true } } := by
  rw [resolveEi, if_pos (by omega), h]; simp

/-- The EI delay runs on: IME stays. -/
theorem resolveEi_of_add_two {s : State} {d : Nat} (h : s.cpu.eiDelay = d + 2) : resolveEi s = { s with cpu.eiDelay := d + 1 } := by
  rw [resolveEi, if_pos (by omega), h]; simp

theorem execEi_of_zero {s : State} (h : s.cpu.eiDelay = 0) : execEi s = .next (State.cost { s with cpu.eiDelay := 2 } 1) := by
  rw [execEi, if_pos h]

/-- A second EI does not restart the delay. -/
theorem execEi_of_ne_zero {s : State} (h : s.cpu.eiDelay ≠ 0) : execEi s = .next (s.cost 1) := by rw [execEi, if_neg h]

theorem execHalt_of_bug {s : State} (hi : s.cpu.ime = false) (hp : s.pending ≠ 0) : execHalt s = .next (State.cost { s with cpu.haltBug := true } 1) :=
  if_pos ⟨hi, hp⟩

theorem execHalt_of_no_bug {s : State} (h : s.cpu.ime = true ∨ s.pending = 0) : execHalt s = .next (State.cost { s with cpu.halted := true } 1) :=
  if_neg fun ⟨hi, hp⟩ => h.elim (fun on => Bool.false_ne_true (hi.symm.trans on)) hp

theorem selectOpcode_of_asleep {s : State} (hd : s.dispatches = false) (hh : s.cpu.halted = true) (hp : s.pending = 0) :
    selectOpcode s = (.halting, s) := by
  have asleep : s.woken = s := State.woken_of_not_pending hp
  rw [selectOpcode_of_halted hd (by rw [asleep]; exact hh), asleep]

/-- With IME false, a request wakes the CPU and is not dispatched. -/
theorem selectOpcode_of_wake {s : State} (hi : s.cpu.ime = false) (hh : s.cpu.halted = true) (hp : s.pending ≠ 0) :
    selectOpcode s = fetchOpcode { s with cpu.halted := false } := by
  have woken := State.woken_of_pending hh hp
  rw [selectOpcode_of_awake (State.dispatches_of_not_ime hi) (by rw [woken]), woken]

/-- Settles O29: each instruction by its cases; the others evaluate. -/
theorem systemInstructions : Obligations.SystemInstructions := fun _ =>
  ⟨⟨rfl, rfl⟩, ⟨rfl, rfl⟩, ⟨rfl, execEi_of_zero, execEi_of_ne_zero⟩,
    ⟨resolveEi_of_zero, resolveEi_of_one, fun _ => resolveEi_of_add_two⟩,
    ⟨rfl, execHalt_of_bug, execHalt_of_no_bug⟩,
    rfl, selectOpcode_of_asleep, selectOpcode_of_wake,
    fun hi hp => selectOpcode_of_dispatches (State.dispatches_of_ime hi hp),
    fun _ => rfl, rfl, rfl, rfl, rfl, rfl, rfl⟩

end Sys2Proof.Machine
end

section
/-! SUPPORT. Costs, construction and reset (70_reset_and_hazards.md): the cost of the prefix, the answers of `construct`, and the values of the reset state. -/

namespace Sys2Proof.Machine

/-! ### The cost of every instruction (R241, R252) -/

/-- No CB instruction has a condition (43_bitops.md). -/
theorem decodeCb_condition (b : Byte) : (decodeCb b).condition = none := by
  unfold decodeCb
  generalize ShiftOp.ofField (fieldY b) = op
  split
  iterate 2 · cases op <;> rfl
  all_goals rfl

theorem State.taken_decodeCb (s : State) (b : Byte) : s.taken (decodeCb b) = true := by
  unfold State.taken; rw [decodeCb_condition]

/-- The prefix costs what the CB instruction that it selects costs (30_encoding.md R75). -/
theorem exec_prefixCb_cpuWait {s t : State} (h : exec .prefixCb s = .next t) :
    t.cpu.cpuWait = 4 * (decodeCb s.fetchVal).mCycles true - 1 := by
  have run : exec (decodeCb s.fetchVal) s.afterFetch = .next t := (runCb_eq s.fetchVal s.afterFetch).symm.trans h
  rw [exec_cpuWait run (decodeCb_ne_prefixCb _), State.taken_decodeCb]

/-- Settles O31: the prefix costs as its CB instruction does, every other instruction by its row. -/
theorem costsAreThoseOfTheTable : Obligations.CostsAreThoseOfTheTable := fun _ _ _ h =>
  ⟨exec_cpuWait h, fun isPrefix => exec_prefixCb_cpuWait (isPrefix ▸ h)⟩

/-! ### Construction (R239) -/

section
variable {p : BuildParams}

theorem construct_of_bad_bootRom (h : p.bootRom.length = 0 ∨ p.bootRom.length > 256) :
    construct p = .refused (.badBootRom p.bootRom.length) := if_pos h

theorem construct_of_bad_cartRom (nonempty : 1 ≤ p.bootRom.length) (short : p.bootRom.length ≤ 256)
    (h : p.cartRom.length < 32768 ∨ p.cartRom.length % 16384 ≠ 0) :
    construct p = .refused (.badCartRom p.cartRom.length) := by
  rw [construct, if_neg (by omega), if_pos h]

/-- With legal images, construction turns on the controller alone. -/
theorem construct_of_legal_images (nonempty : 1 ≤ p.bootRom.length) (short : p.bootRom.length ≤ 256)
    (long : 32768 ≤ p.cartRom.length) (whole : p.cartRom.length % 16384 = 0) :
    construct p = p.cart.elim (.refused .unsupportedController) fun c => .next (p.state c) := by
  rw [construct, if_neg (by omega), if_neg (by omega)]
  cases p.cart <;> rfl

end

/-- An image from offset 0 reads as its bytes, and past its end as what is not listed. -/
theorem Memory.read_ofBytes_zero (d : Byte) (bs : List Byte) (o : Nat) : Memory.read d (Memory.ofBytes d 0 bs) o = bs.getD o d := by
  rw [Memory.read_ofBytes, if_pos (Nat.zero_le o), Nat.sub_zero]

/-- An image reads as its bytes (R49). -/
theorem Memory.read_ofBytes_of_lt (d : Byte) {bs : List Byte} {o : Nat} (h : o < bs.length) :
    Memory.read d (Memory.ofBytes d 0 bs) o = bs[o] := by
  rw [Memory.read_ofBytes_zero, List.getD_eq_getElem _ _ h]

theorem Memory.read_ofBytes_of_le (d : Byte) {bs : List Byte} {o : Nat} (h : bs.length ≤ o) :
    Memory.read d (Memory.ofBytes d 0 bs) o = d := by
  rw [Memory.read_ofBytes_zero, List.getD_eq_default _ _ h]

/-- What TAC, IF and LY read as at reset, with their read-as-one bits (10_state.md R27). -/
theorem loads_reset :
    State.reset.loadVal 0xFF07 = 0xF8 ∧ State.reset.loadVal 0xFF0F = 0xE0 ∧ State.reset.loadVal 0xFF44 = 0 := by decide

/-- Settles O57: the three refusals, the state that legal parameters give, and the reset state by evaluation. -/
theorem constructionAndResetValues : Obligations.ConstructionAndResetValues := by
  refine ⟨fun p => ⟨construct_of_bad_bootRom, construct_of_bad_cartRom, fun nonempty short long whole => ?_⟩, ?_⟩
  · rw [construct_of_legal_images nonempty short long whole]
    refine ⟨fun unsupported => by rw [unsupported]; rfl, fun c supported => ⟨p.state c, by rw [supported]; rfl, rfl, rfl, rfl, ?_⟩⟩
    exact ⟨fun _ => Memory.read_ofBytes_of_lt _, fun _ => Memory.read_ofBytes_of_le _, fun _ => Memory.read_ofBytes_of_lt _,
      initRam_read p.ramInit, initCartRam_read p.cartRamInit⟩
  · intro s
    obtain ⟨tac, ifl, ly⟩ := loads_reset
    rw [tac, ifl, ly]
    and_intros <;> intros <;> rfl

/-! ### The invariant at reset (R240) -/

theorem flagInv_reset : FlagInv State.reset := rfl

theorem cpuInv_reset : CpuInv State.reset := by unfold CpuInv; decide

theorem timerInv_reset : TimerInv State.reset := ⟨rfl, trivial⟩

theorem ppuInv_reset : PpuInv State.reset := by unfold PpuInv; decide

theorem dmaInv_reset : DmaInv State.reset := by unfold DmaInv; decide

/-- Settles O58: each part of the invariant at reset. -/
theorem resetMeetsInvariant : Obligations.ResetMeetsInvariant :=
  { flags := flagInv_reset, cpu := cpuInv_reset, memory := memInv_reset, timer := timerInv_reset, ppu := ppuInv_reset, dma := dmaInv_reset }

end Sys2Proof.Machine
end
